-- ==== Sys2Proof/Word.lean ====
section
/-! DEFINITION. The word types of the PPC's ports and registers (00_scope.md R11 to R14, 30_encoding.md R100). -/

namespace Sys2Proof

/-- A command word `CW` of the CMD port (30_encoding.md R100). -/
abbrev Word := BitVec 32

/-- A 64-bit operand word, response value or stored 64-bit register (30_encoding.md R100, R108). -/
abbrev Word64 := BitVec 64

/-- An 8-bit value: a selector, an immediate, a sample (00_scope.md R13), a byte of a byte sequence. -/
abbrev Byte := BitVec 8

/-- The 64 bits of an IEEE 754 binary64 number; a duration is one, in microseconds (00_scope.md R12).
Its arithmetic is in Machine/Float.lean. -/
abbrev F64 := BitVec 64

/-- A character string of a record (40_message_model.md R131, R135, R139). -/
abbrev Text := List Char

end Sys2Proof
end

