-- ==== Sys2Proof/Machine/Records.lean ====
section
/-! DEFINITION. The records that travel on the PPC's ports (40_message_model.md R130 to R139, 42_contracts.md
R181, R186, R189) and the numeric reading of a field value (R132, R133). -/

namespace Sys2Proof

/-- The payload of a FieldValue: exactly one of an integer (64-bit two's complement) and a string (R131). -/
inductive FieldPayload where
  | int (v : Word64)
  | str (t : Text)
deriving DecidableEq, Repr

/-- The name of a FieldValue, a string of at least one character: an empty name cannot be constructed (R131). -/
structure FieldName where
  first : Char
  rest : Text
deriving DecidableEq, Repr

/-- A FieldValue (R131): every term of the type is a legal one, wherever it travels. -/
structure FieldValue where
  name : FieldName
  payload : FieldPayload
deriving DecidableEq, Repr

/-- A Message: an ordered sequence of field values, names not necessarily unique (R134). -/
abbrev Message := List FieldValue

/-- A ProtocolMessage (R135, R136). -/
structure ProtocolMessage where
  fields : Message
  protocol : Text
  raw : List Byte
  command : Word64
  address : Word64
  repeatCount : Word64
  interpretation : Text
deriving DecidableEq, Repr

/-- A RawMessage: a ProtocolMessage extended with what RCD captured (R137). -/
structure RawMessage where
  base : ProtocolMessage
  offsets : List Nat
  samples : List Byte
  rate : Nat
  durations : List F64
deriving DecidableEq, Repr

/-- A ProtocolInfo (R139). -/
structure ProtocolInfo where
  name : Text
  encodingType : Text
  manufacturer : Text
  bitLength : Nat
  defaultRepeat : Nat
deriving DecidableEq, Repr

/-- What a `ParsedMessage` event carries (42_contracts.md R189). -/
inductive SinkMessage where
  | protocol (m : ProtocolMessage)
  | raw (m : RawMessage)
deriving DecidableEq, Repr

/-- The three sink events (42_contracts.md R189). -/
inductive SinkEvent where
  | parsedMessage (m : SinkMessage)
  | partiallyParsed (protocolName : Text) (bitsDecoded : Nat)
  | reportLevel (level : Int)
deriving DecidableEq, Repr

/-- The encoding phase (42_contracts.md R186); `phaseBit` is its bit on the port. -/
inductive Phase where
  | first
  | repeated
deriving DecidableEq, Repr

/-- A call the PPC makes on a decoder port (42_contracts.md R180, R181, R183). -/
inductive DecCall where
  | parse (d : F64) (isMark : Bool)
  | setTarget (k : Nat)
deriving DecidableEq, Repr

/-- A call the PPC makes on an encoder port: the message and the phase as the port has it, one bit (42_contracts.md
R186). -/
structure EncCall where
  msg : Message
  phase : BitVec 1
deriving DecidableEq, Repr

/-- What `DEC[i].parse` answers: a state code and the sink events it raises (42_contracts.md R181). The events are any
that R189 types, a `ParsedMessage` with a RawMessage among them. 40_message_model.md R137 has RCD alone create
RawMessages and R185 puts no such duty on a decoder; that the model lets a decoder answer with one, presented or free,
and forwards it as any other event is the model's (DESIGN CHOICE, safe, entry 22). -/
structure DecAnswer where
  code : BitVec 32
  evs : List SinkEvent
deriving DecidableEq, Repr, Inhabited

/-- What `ENC[e].encode` answers: a pulse sequence or BadMessage (42_contracts.md R186). -/
inductive EncAnswer where
  | badMessage
  | pulses (ds : List F64)
deriving DecidableEq, Repr, Inhabited

/-- A field value as a host writes it on the CMD port, before it is known to be one: a name of any length and the
payloads presented (R131). -/
structure FieldRecord where
  name : Text
  int : Option Word64
  str : Option Text
deriving DecidableEq, Repr

/-- A message as a host writes it on the CMD port. -/
abbrev MessageRecord := List FieldRecord

/-- One transfer on the CMD port: a 32-bit word or a whole message record, whose framing the spec does not define
(30_encoding.md R100, R113). A 64-bit operand word is two 32-bit words, the low half first (DESIGN CHOICE, entry 3). -/
inductive PortItem where
  | word (w : Word)
  | message (m : MessageRecord)
deriving DecidableEq, Repr

namespace Machine

/-- The phase on an encoder port, one bit: 0 is FIRST, 1 is REPEATED (42_contracts.md R186). -/
def phaseBit : Phase → BitVec 1
  | .first => 0#1
  | .repeated => 1#1

/-- R131: the field value a record stands for; none with an empty name, with both payloads or with neither. -/
def fieldOfRecord (r : FieldRecord) : Option FieldValue :=
  match r with
  | ⟨c :: cs, some v, none⟩ => some ⟨⟨c, cs⟩, .int v⟩
  | ⟨c :: cs, none, some t⟩ => some ⟨⟨c, cs⟩, .str t⟩
  | ⟨[], _, _⟩ | ⟨_ :: _, some _, some _⟩ | ⟨_ :: _, none, none⟩ => none

/-- R131, R134: the message a record stands for, in its order, if every field value can be constructed. -/
def messageOfRecord : MessageRecord → Option Message
  | [] => some []
  | r :: rest =>
    match fieldOfRecord r, messageOfRecord rest with
    | some fv, some m => some (fv :: m)
    | some _, none | none, _ => none

/-- The record a host writes for a field value. -/
def recordOfField (fv : FieldValue) : FieldRecord :=
  match fv.payload with
  | .int v => ⟨fv.name.first :: fv.name.rest, some v, none⟩
  | .str t => ⟨fv.name.first :: fv.name.rest, none, some t⟩

/-- The record a host writes for a message. -/
def recordOfMessage (m : Message) : MessageRecord := m.map recordOfField

/-- The value of a decimal digit, if the character is one. -/
def digitValue (c : Char) : Option Nat :=
  if 48 ≤ c.toNat ∧ c.toNat ≤ 57 then some (c.toNat - 48) else none

/-- The number a sequence of decimal digits denotes, `acc` being what stands before it. -/
def digitsValue (acc : Nat) : Text → Option Nat
  | [] => some acc
  | c :: rest =>
    match digitValue c with
    | some v => digitsValue (acc * 10 + v) rest
    | none => none

/-- R133: an optional minus sign and one or more decimal digits, as an unbounded integer. -/
def decimalValue : Text → Option Int
  | [] => none
  | '-' :: [] => none
  | '-' :: rest => (digitsValue 0 rest).map fun (n : Nat) => -(n : Int)
  | t => (digitsValue 0 t).map fun (n : Nat) => (n : Int)

/-- R133: `ParseInt`, -1 on every parse failure and on a number that 64 bits two's complement do not hold. -/
def parseInt (t : Text) : Word64 :=
  match decimalValue t with
  | some v => if -(2 ^ 63 : Int) ≤ v ∧ v < 2 ^ 63 then BitVec.ofInt 64 v else BitVec.allOnes 64
  | none => BitVec.allOnes 64

/-- R132: the numeric reading of a field value. -/
def fieldValueNum (fv : FieldValue) : Word64 :=
  match fv.payload with
  | .int v => v
  | .str t => parseInt t

end Machine

end Sys2Proof
end

