-- ==== Sys2Proof/Config.lean ====
section
/-! DEFINITION. What an implementation fixes (00_scope.md R7) and the values the spec leaves open. The size
parameters and SXT_MODE are the structure `Params`, which a state carries unchanged, so that every statement about
all states is a statement about all parameter values. The open functions are opaque constants without a body. -/

namespace Sys2Proof

/-- The two meanings of `BFB.EXTS` (41_bitfield.md R161). -/
inductive SxtMode where
  | compat
  | signext
deriving DecidableEq, Repr, Inhabited

/-- The parameters of 00_scope.md R7 that are open to the implementation. -/
structure Params where
  nbuf : Nat
  fdHistMax : Nat
  ndec : Nat
  nenc : Nat
  nsink : Nat
  pcNgroups : Nat
  rcdSampleCap : Nat
  rcdPulseCap : Nat
  mrOutCap : Nat
  sxtMode : SxtMode
deriving DecidableEq, Repr

/-- The binary64 operations whose NaN results the spec leaves open. -/
inductive FpOp where
  | add
  | sub
  | mul
  | div
  | fmin
  | fmax
deriving DecidableEq, Repr

namespace Config

/-- `BFB_CAP` (R7, fixed by NHU). -/
def bfbCap : Nat := 64

/-- `RCD_START_MAX_US` = 200000.0 as binary64 (R7, fixed by NHU). -/
def rcdStartMaxUs : F64 := 0x41086A0000000000#64

/-- `LEVEL_FULL` (R7). -/
def levelFull : Nat := 128

/-- FREE VALUE: `SXT_MODE`, which R7 and R161 leave open without a default. -/
opaque sxtMode : SxtMode

/-- The default values of R7; `SXT_MODE` is the free value above. -/
def params : Params where
  nbuf := 4
  fdHistMax := 16
  ndec := 8
  nenc := 4
  nsink := 1
  pcNgroups := 32
  rcdSampleCap := 1048576
  rcdPulseCap := 4096
  mrOutCap := 65536
  sxtMode := sxtMode

/-- FREE VALUE: `HashFn`, any function of length and bits with a 32-bit result (R7, R165). -/
opaque hashFn : Nat → BitVec 64 → BitVec 32

/-- FREE VALUE: the sign and the payload of a NaN that an operation on two operands produces
(93_implementation_defined.md U14). -/
opaque nanBits : FpOp → F64 → F64 → Bool × BitVec 52

/-- FREE VALUE: whether fmin or fmax is its first operand when both operands are NaNs, or zeros of unlike sign; the
spec states no result there. -/
opaque eitherOf : FpOp → F64 → F64 → Bool

/-- FREE VALUE: what decides between groups of equal count in the result of `PC.GET`
(93_implementation_defined.md U3): the key of the group with a given index, at a given length of the output log. -/
opaque tieKey : Nat → Nat → Nat

/-- FREE VALUE: the answer of the decoder behind a port, a function of the calls made on that port so far, the
answered one last (42_contracts.md R185 f). Its events may carry any message that R189 types (DESIGN CHOICE, safe, entry
22). -/
opaque decoder : Nat → List DecCall → DecAnswer

/-- FREE VALUE: the answer of the encoder behind a port, a function of the calls made on that port so far, the
answered one last (42_contracts.md R186). -/
opaque encoder : Nat → List EncCall → EncAnswer

end Config

end Sys2Proof
end

