-- ==== Sys2Proof/Machine/Float.lean ====
section
/-! DEFINITION. IEEE 754 binary64, round to nearest even (00_scope.md R12; the standard's content is the spec's
93_implementation_defined.md G2), by exact integers. A finite number or an infinity is read as an integer multiple of
2 ^ -1074, the least positive number. An operation ending in `?` answers `none` for a NaN result; the one without
answers the bits, a NaN's sign and payload being free (U14, entry 8). -/

namespace Sys2Proof.Machine

/-- The sign bit. -/
def f64Sign (x : F64) : Bool := x.getLsbD 63

/-- The biased exponent. -/
def f64Exp (x : F64) : Nat := (x.extractLsb' 52 11).toNat

/-- The fraction field. -/
def f64Frac (x : F64) : Nat := (x.extractLsb' 0 52).toNat

/-- The value is a NaN. -/
def f64IsNan (x : F64) : Bool := f64Exp x == 2047 && f64Frac x != 0

/-- The value is an infinity. -/
def f64IsInf (x : F64) : Bool := f64Exp x == 2047 && f64Frac x == 0

/-- The value is neither a NaN nor an infinity. -/
def f64IsFinite (x : F64) : Bool := f64Exp x != 2047

/-- The magnitude in units of 2 ^ -1074. An infinity's is greater than that of every finite number. -/
def f64Mag (x : F64) : Nat :=
  if f64Exp x = 0 then f64Frac x else (2 ^ 52 + f64Frac x) * 2 ^ (f64Exp x - 1)

/-- The value in units of 2 ^ -1074. -/
def f64Int (x : F64) : Int := if f64Sign x then -(f64Mag x : Int) else (f64Mag x : Int)

/-- The number with a given sign and magnitude bits. -/
def f64Pack (neg : Bool) (magBits : Nat) : F64 :=
  BitVec.ofBool neg ++ BitVec.ofNat 63 magBits

/-- An infinity. -/
def f64Inf (neg : Bool) : F64 := f64Pack neg (2047 * 2 ^ 52)

/-- The exponent, in units of 2 ^ -1074, of the last place of the binary64 nearest to `num / den` units. -/
def roundExp (num den : Nat) : Nat :=
  let e := Nat.log2 num - Nat.log2 den - 53
  if 2 ^ 53 ≤ num / (den * 2 ^ e) then e + 1 else e

/-- `num / den` to the nearest integer, ties to even. -/
def roundDiv (num den : Nat) : Nat :=
  let q := num / den
  let r := num % den
  if den < 2 * r ∨ (den = 2 * r ∧ q % 2 = 1) then q + 1 else q

/-- The binary64 nearest to `num / den` units of 2 ^ -1074, ties to even, an infinity beyond the largest. -/
def f64Round (neg : Bool) (num den : Nat) : F64 :=
  let e := roundExp num den
  let magBits := e * 2 ^ 52 + roundDiv num (den * 2 ^ e)
  if 2047 * 2 ^ 52 ≤ magBits then f64Inf neg else f64Pack neg magBits

/-- A sign change. -/
def f64Neg (x : F64) : F64 := x ^^^ 0x8000000000000000#64

/-- `fabs`. -/
def f64Abs (x : F64) : F64 := x &&& 0x7FFFFFFFFFFFFFFF#64

/-- The binary64 nearest to a natural number (`float64(n)`, 00_scope.md section 7). -/
def f64OfNat (n : Nat) : F64 := f64Round false (n * 2 ^ 1074) 1

/-- IEEE ordered less-than, false with a NaN (R12). -/
def f64Lt (x y : F64) : Bool := !f64IsNan x && !f64IsNan y && decide (f64Int x < f64Int y)

/-- IEEE addition; `none` is a NaN. -/
def f64Add? (x y : F64) : Option F64 :=
  if f64IsNan x || f64IsNan y then none
  else if f64IsInf x then (if f64IsInf y && (f64Sign x != f64Sign y) then none else some x)
  else if f64IsInf y then some y
  else
    let v := f64Int x + f64Int y
    if v = 0 then some (f64Pack (f64Sign x && f64Sign y) 0)
    else some (f64Round (decide (v < 0)) v.natAbs 1)

/-- IEEE subtraction; `none` is a NaN. -/
def f64Sub? (x y : F64) : Option F64 := f64Add? x (f64Neg y)

/-- IEEE multiplication; `none` is a NaN. -/
def f64Mul? (x y : F64) : Option F64 :=
  let neg := f64Sign x != f64Sign y
  if f64IsNan x || f64IsNan y then none
  else if f64IsInf x || f64IsInf y then
    (if f64Mag x = 0 ∨ f64Mag y = 0 then none else some (f64Inf neg))
  else some (f64Round neg (f64Mag x * f64Mag y) (2 ^ 1074))

/-- IEEE division; `none` is a NaN. -/
def f64Div? (x y : F64) : Option F64 :=
  let neg := f64Sign x != f64Sign y
  if f64IsNan x || f64IsNan y then none
  else if f64IsInf x then (if f64IsInf y then none else some (f64Inf neg))
  else if f64IsInf y then some (f64Pack neg 0)
  else if f64Mag y = 0 then (if f64Mag x = 0 then none else some (f64Inf neg))
  else some (f64Round neg (f64Mag x * 2 ^ 1074) (f64Mag y))

/-- A NaN with a free sign and a free payload (U14, entry 8). -/
def freeNan (op : FpOp) (x y : F64) : F64 :=
  let p := (Config.nanBits op x y).2
  BitVec.ofBool (Config.nanBits op x y).1 ++ BitVec.allOnes 11 ++ (if p = 0#52 then 1#52 else p)

/-- IEEE addition. -/
def f64Add (x y : F64) : F64 := (f64Add? x y).getD (freeNan .add x y)

/-- IEEE subtraction. -/
def f64Sub (x y : F64) : F64 := (f64Sub? x y).getD (freeNan .sub x y)

/-- IEEE multiplication. -/
def f64Mul (x y : F64) : F64 := (f64Mul? x y).getD (freeNan .mul x y)

/-- IEEE division. -/
def f64Div (x y : F64) : F64 := (f64Div? x y).getD (freeNan .div x y)

/-- `fmin` (00_scope.md section 7): the other operand when one is a NaN; of two NaNs, and of a zero and a zero
of the other sign, either, freely (entry 9). -/
def fmin (x y : F64) : F64 :=
  if f64IsNan x && f64IsNan y then (if Config.eitherOf .fmin x y then x else y)
  else if f64IsNan x then y
  else if f64IsNan y then x
  else if f64Lt y x then y
  else if f64Lt x y then x
  else if x = y then x
  else if Config.eitherOf .fmin x y then x else y

/-- `fmax` (00_scope.md section 7), as `fmin`. -/
def fmax (x y : F64) : F64 :=
  if f64IsNan x && f64IsNan y then (if Config.eitherOf .fmax x y then x else y)
  else if f64IsNan x then y
  else if f64IsNan y then x
  else if f64Lt x y then y
  else if f64Lt y x then x
  else if x = y then x
  else if Config.eitherOf .fmax x y then x else y

/-- 1.0. -/
def f64One : F64 := 0x3FF0000000000000#64

/-- 1000000.0. -/
def f64Million : F64 := 0x412E848000000000#64

/-- +0.0. -/
def f64Zero : F64 := 0#64

end Sys2Proof.Machine
end

