-- ==== Sys2Proof/Syntax.lean ====
section
/-! DEFINITION. The commands of the PPC, one constructor per row of the opcode map (30_encoding.md R110). Operand
letters are those of the map: `b`, `b2` BFB registers, `i` a decoder slot, `k` a sink slot, `e` an encoder slot,
`n` a CSR number, `s` a sample, `f` the boolean, `a`, `b'`, `c` the operand words A, B, C. -/

namespace Sys2Proof

/-- The commands (30_encoding.md R110, in the order of the map). -/
inductive Instr where
  | nop
  | csrRd (n : Byte)
  | csrWr (n : Byte) (a : Word64)
  | sysReset
  | topSample (smp : Byte)
  | topSetrate (a : Word64)
  | bfbNew (b : Byte) (a : Word64)
  | bfbNewv (b : Byte) (a v : Word64)
  | bfbClear (b : Byte)
  | bfbLen (b : Byte)
  | bfbGetbit (b : Byte) (a : Word64)
  | bfbSetbit (b : Byte) (a : Word64) (f : Bool)
  | bfbAddmsb (b : Byte) (f : Bool)
  | bfbAddlsb (b : Byte) (f : Bool)
  | bfbInsert (b : Byte) (a l v : Word64)
  | bfbExtu (b : Byte) (a l : Word64)
  | bfbExts (b : Byte) (a l : Word64)
  | bfbShr (b : Byte) (a : Word64)
  | bfbTobytes (b : Byte)
  | bfbEq (b b2 : Byte)
  | bfbHash (b : Byte)
  | fdSample (smp : Byte)
  | fdSetrate (a : Word64)
  | pcAdd (d : F64) (f : Bool)
  | pcPrime (d : F64) (f : Bool)
  | pcGet
  | pcReset
  | dgParse (d : F64) (f : Bool)
  | dgAdd (i : Byte)
  | dgRemove (i : Byte)
  | dgSetactive (i : Byte) (f : Bool)
  | dgSettarget (k : Byte)
  | rcdParse (d : F64) (f : Bool)
  | rcdAddsample (smp : Byte)
  | rcdSetrate (a : Word64)
  | rcdSettarget (k : Byte)
  | rcdStartfree (a : Word64)
  | rcdGetinfo
  | mrRepeat (e : Byte) (n : Word64) (msg : Message)
deriving DecidableEq, Repr

end Sys2Proof
end

