-- ==== Sys2Proof/WellFormed.lean ====
section
/-! DEFINITION. What is well formed. Every field of a command has exactly the width of its place in the command word or
operand word (30_encoding.md R101, R103, R104), and a message operand is a list of field values that are legal by their
type (40_message_model.md R131), so that every term of `Instr` is a well-formed command; a selector out of the configured
range is a fault of the command, not an ill-formed command (R104). What can be ill-formed is the record that a host puts
on the CMD port for a message operand: these are the checks of R131. -/

namespace Sys2Proof

/-- R131: a name that is not empty, and exactly one payload. -/
def FieldRecord.wf (r : FieldRecord) : Bool := !r.name.isEmpty && (r.int.isSome != r.str.isSome)

/-- R131, R134: every field value of the record is well formed; an empty message is. -/
def messageRecordWf (m : MessageRecord) : Bool := m.all FieldRecord.wf

end Sys2Proof
end

