-- ==== Sys2Proof/Decode.lean ====
section
/-! DEFINITION. Decoding the CMD port (30_encoding.md R100 to R113), total on any sequence of transfers and rejecting
by name, and after it the encoder of a command, both from the opcode map R110. -/

namespace Sys2Proof

/-- The four fields of a command word; `op` is UNIT and FUNC together (R101). -/
structure CmdWord where
  op : Byte
  sel : Byte
  sel2 : Byte
  imm : Byte
deriving DecidableEq, Repr

/-- R101: the fields of a command word. -/
def cmdFields (w : Word) : CmdWord where
  op := w.extractLsb' 24 8
  sel := w.extractLsb' 16 8
  sel2 := w.extractLsb' 8 8
  imm := w.extractLsb' 0 8

/-- R101: the command word with given fields. -/
def cmdWord (c : CmdWord) : Word := c.op ++ c.sel ++ c.sel2 ++ c.imm

/-- A legal command word and the operands its format has still to bring (R102); D1 is `a1` at a binary64. -/
inductive Head where
  | z (i : Instr)
  | a1 (k : Word64 → Instr)
  | a2 (k : Word64 → Word64 → Instr)
  | a3 (k : Word64 → Word64 → Word64 → Instr)
  | m1 (k : Word64 → Message → Instr)

/-- R106: a row is selected only when the fields it does not use are zero. -/
def onlyIf (ok : Bool) (h : Head) : Option Head := if ok then some h else none

/-- R106: no field of the word is used. -/
def plain (c : CmdWord) (h : Head) : Option Head := onlyIf (c.sel == 0#8 && c.sel2 == 0#8 && c.imm == 0#8) h

/-- R106: only SEL is used. -/
def bySel (c : CmdWord) (k : Byte → Head) : Option Head := onlyIf (c.sel2 == 0#8 && c.imm == 0#8) (k c.sel)

/-- R106: only SEL2 is used. -/
def bySel2 (c : CmdWord) (k : Byte → Head) : Option Head := onlyIf (c.sel == 0#8 && c.imm == 0#8) (k c.sel2)

/-- R106: SEL and SEL2 are used. -/
def byBoth (c : CmdWord) (k : Byte → Byte → Head) : Option Head := onlyIf (c.imm == 0#8) (k c.sel c.sel2)

/-- R104: `IMM8` is a sample. -/
def bySample (c : CmdWord) (k : Byte → Head) : Option Head := onlyIf (c.sel == 0#8 && c.sel2 == 0#8) (k c.imm)

/-- R104: `IMM8[0]` is a boolean and `IMM8[7:1]` is zero. -/
def byFlag (c : CmdWord) (k : Bool → Head) : Option Head :=
  onlyIf (c.sel == 0#8 && c.sel2 == 0#8 && c.imm.extractLsb' 1 7 == 0#7) (k (c.imm.getLsbD 0))

/-- R104: SEL is used and `IMM8[0]` is a boolean. -/
def bySelFlag (c : CmdWord) (k : Byte → Bool → Head) : Option Head :=
  onlyIf (c.sel2 == 0#8 && c.imm.extractLsb' 1 7 == 0#7) (k c.sel (c.imm.getLsbD 0))

/-- R110, R111: the row a command word selects, if any. -/
def decodeHead (c : CmdWord) : Option Head :=
  match c.op.toNat with
  | 0x00 => plain c (.z .nop)
  | 0x01 => bySel c fun n => .z (.csrRd n)
  | 0x02 => bySel c fun n => .a1 fun a => .csrWr n a
  | 0x03 => plain c (.z .sysReset)
  | 0x04 => bySample c fun s => .z (.topSample s)
  | 0x05 => plain c (.a1 fun a => .topSetrate a)
  | 0x10 => bySel c fun b => .a1 fun a => .bfbNew b a
  | 0x11 => bySel c fun b => .a2 fun a v => .bfbNewv b a v
  | 0x12 => bySel c fun b => .z (.bfbClear b)
  | 0x13 => bySel c fun b => .z (.bfbLen b)
  | 0x14 => bySel c fun b => .a1 fun a => .bfbGetbit b a
  | 0x15 => bySelFlag c fun b f => .a1 fun a => .bfbSetbit b a f
  | 0x16 => bySelFlag c fun b f => .z (.bfbAddmsb b f)
  | 0x17 => bySelFlag c fun b f => .z (.bfbAddlsb b f)
  | 0x18 => bySel c fun b => .a3 fun a l v => .bfbInsert b a l v
  | 0x19 => bySel c fun b => .a2 fun a l => .bfbExtu b a l
  | 0x1A => bySel c fun b => .a2 fun a l => .bfbExts b a l
  | 0x1B => bySel c fun b => .a1 fun a => .bfbShr b a
  | 0x1C => bySel c fun b => .z (.bfbTobytes b)
  | 0x1D => byBoth c fun b b2 => .z (.bfbEq b b2)
  | 0x1E => bySel c fun b => .z (.bfbHash b)
  | 0x20 => bySample c fun s => .z (.fdSample s)
  | 0x21 => plain c (.a1 fun a => .fdSetrate a)
  | 0x30 => byFlag c fun f => .a1 fun d => .pcAdd d f
  | 0x31 => byFlag c fun f => .a1 fun d => .pcPrime d f
  | 0x32 => plain c (.z .pcGet)
  | 0x33 => plain c (.z .pcReset)
  | 0x40 => byFlag c fun f => .a1 fun d => .dgParse d f
  | 0x41 => bySel c fun i => .z (.dgAdd i)
  | 0x42 => bySel c fun i => .z (.dgRemove i)
  | 0x43 => bySelFlag c fun i f => .z (.dgSetactive i f)
  | 0x44 => bySel2 c fun k => .z (.dgSettarget k)
  | 0x50 => byFlag c fun f => .a1 fun d => .rcdParse d f
  | 0x51 => bySample c fun s => .z (.rcdAddsample s)
  | 0x52 => plain c (.a1 fun a => .rcdSetrate a)
  | 0x53 => bySel2 c fun k => .z (.rcdSettarget k)
  | 0x54 => plain c (.a1 fun a => .rcdStartfree a)
  | 0x55 => plain c (.z .rcdGetinfo)
  | 0x60 => bySel c fun e => .m1 fun n m => .mrRepeat e n m
  | _ => none

/-- What stands at the front of the CMD port. -/
inductive Decoded where
  /-- Nothing has arrived (42_contracts.md R191). -/
  | idle
  /-- The command word's format needs transfers that have not arrived (93_implementation_defined.md U16). -/
  | waiting
  /-- A command word that matches no row; it has length 4 and `rest` follows it (R107, R111). -/
  | illegal (rest : List PortItem)
  /-- A message record where a command word is due; the spec gives it no meaning. -/
  | strayMessage
  /-- A message record of which R131 says that it is ill-formed and cannot be constructed. -/
  | illFormedMessage
  /-- A command, and what follows it. -/
  | command (i : Instr) (rest : List PortItem)
deriving DecidableEq, Repr

/-- R100: one 64-bit operand word, its low half arriving first (DESIGN CHOICE, entry 3). -/
def takeOperand : List PortItem → Option (Word64 × List PortItem)
  | .word lo :: .word hi :: rest => some (hi ++ lo, rest)
  | _ => none

/-- R102: the operands of a legal command word. -/
def decodeOperands (h : Head) (items : List PortItem) : Decoded :=
  match h with
  | .z i => .command i items
  | .a1 k =>
    match takeOperand items with
    | some (a, rest) => .command (k a) rest
    | none => .waiting
  | .a2 k =>
    match takeOperand items with
    | some (a, rest) =>
      match takeOperand rest with
      | some (b, rest2) => .command (k a b) rest2
      | none => .waiting
    | none => .waiting
  | .a3 k =>
    match takeOperand items with
    | some (a, rest) =>
      match takeOperand rest with
      | some (b, rest2) =>
        match takeOperand rest2 with
        | some (c, rest3) => .command (k a b c) rest3
        | none => .waiting
      | none => .waiting
    | none => .waiting
  | .m1 k =>
    match takeOperand items with
    | some (a, .message r :: rest) =>
      match Machine.messageOfRecord r with
      | some m => .command (k a m) rest
      | none => .illFormedMessage
    | some (_, _) => .waiting
    | none => .waiting

/-- R100, R107: the command at the front of the CMD port. -/
def decode (items : List PortItem) : Decoded :=
  match items with
  | [] => .idle
  | .message _ :: _ => .strayMessage
  | .word w :: rest =>
    match decodeHead (cmdFields w) with
    | some h => decodeOperands h rest
    | none => .illegal rest

/-- The transfers of a 64-bit operand word. -/
def operandItems (a : Word64) : List PortItem := [.word (a.extractLsb' 0 32), .word (a.extractLsb' 32 32)]

/-- The transfer of the command word with given fields. -/
def headItem (op sel sel2 imm : Byte) : PortItem := .word (cmdWord ⟨op, sel, sel2, imm⟩)

/-- R104: a boolean as `IMM8`. -/
def flagByte (f : Bool) : Byte := if f then 1#8 else 0#8

/-- R100 to R110: the transfers of a command. -/
def encode : Instr → List PortItem
  | .nop => [headItem 0x00#8 0#8 0#8 0#8]
  | .csrRd n => [headItem 0x01#8 n 0#8 0#8]
  | .csrWr n a => headItem 0x02#8 n 0#8 0#8 :: operandItems a
  | .sysReset => [headItem 0x03#8 0#8 0#8 0#8]
  | .topSample s => [headItem 0x04#8 0#8 0#8 s]
  | .topSetrate a => headItem 0x05#8 0#8 0#8 0#8 :: operandItems a
  | .bfbNew b a => headItem 0x10#8 b 0#8 0#8 :: operandItems a
  | .bfbNewv b a v => headItem 0x11#8 b 0#8 0#8 :: (operandItems a ++ operandItems v)
  | .bfbClear b => [headItem 0x12#8 b 0#8 0#8]
  | .bfbLen b => [headItem 0x13#8 b 0#8 0#8]
  | .bfbGetbit b a => headItem 0x14#8 b 0#8 0#8 :: operandItems a
  | .bfbSetbit b a f => headItem 0x15#8 b 0#8 (flagByte f) :: operandItems a
  | .bfbAddmsb b f => [headItem 0x16#8 b 0#8 (flagByte f)]
  | .bfbAddlsb b f => [headItem 0x17#8 b 0#8 (flagByte f)]
  | .bfbInsert b a l v => headItem 0x18#8 b 0#8 0#8 :: (operandItems a ++ operandItems l ++ operandItems v)
  | .bfbExtu b a l => headItem 0x19#8 b 0#8 0#8 :: (operandItems a ++ operandItems l)
  | .bfbExts b a l => headItem 0x1A#8 b 0#8 0#8 :: (operandItems a ++ operandItems l)
  | .bfbShr b a => headItem 0x1B#8 b 0#8 0#8 :: operandItems a
  | .bfbTobytes b => [headItem 0x1C#8 b 0#8 0#8]
  | .bfbEq b b2 => [headItem 0x1D#8 b b2 0#8]
  | .bfbHash b => [headItem 0x1E#8 b 0#8 0#8]
  | .fdSample s => [headItem 0x20#8 0#8 0#8 s]
  | .fdSetrate a => headItem 0x21#8 0#8 0#8 0#8 :: operandItems a
  | .pcAdd d f => headItem 0x30#8 0#8 0#8 (flagByte f) :: operandItems d
  | .pcPrime d f => headItem 0x31#8 0#8 0#8 (flagByte f) :: operandItems d
  | .pcGet => [headItem 0x32#8 0#8 0#8 0#8]
  | .pcReset => [headItem 0x33#8 0#8 0#8 0#8]
  | .dgParse d f => headItem 0x40#8 0#8 0#8 (flagByte f) :: operandItems d
  | .dgAdd i => [headItem 0x41#8 i 0#8 0#8]
  | .dgRemove i => [headItem 0x42#8 i 0#8 0#8]
  | .dgSetactive i f => [headItem 0x43#8 i 0#8 (flagByte f)]
  | .dgSettarget k => [headItem 0x44#8 0#8 k 0#8]
  | .rcdParse d f => headItem 0x50#8 0#8 0#8 (flagByte f) :: operandItems d
  | .rcdAddsample s => [headItem 0x51#8 0#8 0#8 s]
  | .rcdSetrate a => headItem 0x52#8 0#8 0#8 0#8 :: operandItems a
  | .rcdSettarget k => [headItem 0x53#8 0#8 k 0#8]
  | .rcdStartfree a => headItem 0x54#8 0#8 0#8 0#8 :: operandItems a
  | .rcdGetinfo => [headItem 0x55#8 0#8 0#8 0#8]
  | .mrRepeat e n m => headItem 0x60#8 e 0#8 0#8 :: (operandItems n ++ [.message (Machine.recordOfMessage m)])

/-- The seven 32-bit words of the longest command (R107: 28 bytes), `w`'s low `nbits` bits numbered from the first
word's bit 0 and zero above. -/
def tableWords (nbits w : Nat) : List PortItem :=
  [0, 1, 2, 3, 4, 5, 6].map fun k => .word (BitVec.ofNat 32 ((w % 2 ^ nbits) >>> (32 * k)))

/-- `tableWords` as transfers: a command of format M1 has its message record, the empty one, after its operand A. -/
def tableItems (nbits w : Nat) : List PortItem :=
  match decodeHead (cmdFields (BitVec.ofNat 32 (w % 2 ^ nbits))) with
  | some (.m1 _) => (tableWords nbits w).take 3 ++ .message [] :: (tableWords nbits w).drop 3
  | _ => tableWords nbits w

/-- The command the decoder reads from an opcode-table word. -/
def decodeTableWord (nbits w : Nat) : Option Instr :=
  match decode (tableItems nbits w) with
  | .command i _ => some i
  | _ => none

end Sys2Proof
end

