-- ==== Sys2Proof/Machine/State.lean ====
section
/-! DEFINITION. The architectural state of the PPC (10_state.md R20 to R33, R40 to R55), its ports, and its value after
reset (R60). A buffer with a count (`RCD.nSamples`, `RCD.nPulses`, `PC.n`) is the list of its valid entries and the
count is the length of the list: entries beyond the count are read by no rule (70_reset_and_hazards.md R362,
93_implementation_defined.md U8). -/

namespace Sys2Proof.Machine

/-- One bit-field buffer `B[b]` (10_state.md R21). -/
structure Buf where
  len : Nat
  bits : BitVec 64
deriving DecidableEq, Repr

/-- The direction of a flank, -1, 0 or +1 (10_state.md R23). -/
inductive Dir where
  | fall
  | flat
  | rise
deriving DecidableEq, Repr

/-- FD's state (10_state.md R23). `hist` is `FD.hist[0]`, `FD.hist[1]`, ..., newest first. -/
structure Fd where
  hist : List Byte
  cnt : Nat
  lastDir : Dir
  pushed : Bool
  rate : Nat
deriving DecidableEq, Repr

/-- One pulse-length group (10_state.md R25). -/
structure Group where
  isMark : Bool
  primer : Bool
  center : F64
  sum : F64
  count : Nat
  min : F64
  max : F64
deriving DecidableEq, Repr

/-- PC's state (10_state.md R25): the valid entries of `PC.G` in creation order, and `PC.ovf`. -/
structure Pc where
  groups : List Group
  ovf : Bool
deriving DecidableEq, Repr

/-- DG's state (10_state.md R27): the two membership lists, oldest member first. -/
structure Dg where
  active : List Nat
  passive : List Nat
deriving DecidableEq, Repr

/-- The two states of the capture machine (10_state.md R29). -/
inductive RcdMode where
  | idle
  | capturing
deriving DecidableEq, Repr

/-- One recorded pulse: `RCD.offsets[i]` and `RCD.durs[i]`, whose valid ranges are the same (10_state.md R29). -/
structure RcdPulse where
  offset : Nat
  dur : F64
deriving DecidableEq, Repr

/-- RCD's state (10_state.md R29). -/
structure Rcd where
  mode : RcdMode
  free : Bool
  samples : List Byte
  pulses : List RcdPulse
  budget : Nat
  rate : Nat
  level : Nat
  levelCtr : Nat
  target : Nat
deriving DecidableEq, Repr

/-- The stored control and status registers (10_state.md R40 to R53), 64 bits each. -/
structure Csr where
  route : Word64
  fdFlankLength : Word64
  fdFlankSwing : Word64
  fdFlankHoldoff : Word64
  fdPwcUs : F64
  fdPushPeriodMs : Word64
  fdPushClampUs : F64
  pcTolerance : F64
  rcdEomGapUs : F64
  rcdMaxMsgMs : Word64
  rcdLevelReportHz : Word64
  rcdLevelZeroMs : Word64
deriving DecidableEq, Repr

/-- The CSR names (10_state.md R40). -/
inductive CsrName where
  | status
  | route
  | fdFlankLength
  | fdFlankSwing
  | fdFlankHoldoff
  | fdPwcUs
  | fdPushPeriodMs
  | fdPushClampUs
  | fdRate
  | fdPushSamples
  | pcTolerance
  | pcUsed
  | rcdEomGapUs
  | rcdMaxMsgMs
  | rcdLevelReportHz
  | rcdLevelZeroMs
  | rcdRate
  | rcdLevel
  | rcdNsamples
  | rcdNpulses
deriving DecidableEq, Repr

/-- The status of a response (60_exceptions.md R330). -/
inductive Status where
  | ok
  | invalidArgument
  | rangeError
  | badMessage
  | illegalCommand
deriving DecidableEq, Repr

/-- The cause of a fault (60_exceptions.md R331). -/
inductive Cause where
  | none
  | badIndex
  | badLength
  | badBitPos
  | badField
  | badShift
  | badConfig
  | badCsr
  | rateNotSet
  | badCount
  | outputTooLong
  | full
deriving DecidableEq, Repr

/-- One group report of `PC.GET` (30_encoding.md R109). -/
structure GroupReport where
  isMark : Bool
  count : Nat
  avg : F64
  min : F64
  max : F64
  sum : F64
deriving DecidableEq, Repr

/-- One element of a response's payload (30_encoding.md R109). -/
inductive PayloadItem where
  | byte (b : Byte)
  | group (g : GroupReport)
  | duration (d : F64)
  | info (p : ProtocolInfo)
deriving DecidableEq, Repr

/-- A response (30_encoding.md R108). -/
structure Response where
  status : Status
  cause : Cause
  value : Word64
  payload : List PayloadItem
deriving DecidableEq, Repr

/-- An output transaction (10_state.md R33). -/
inductive Output where
  | resp (r : Response)
  | dec (i : Nat) (call : DecCall)
  | enc (e : Nat) (call : EncCall)
  | sink (k : Nat) (ev : SinkEvent)
  | pulse (d : F64) (isMark : Bool)
deriving DecidableEq, Repr

/-- The state of the PPC, and of its ports: what the host and the agents have presented and the PPC has not yet
taken, and what the PPC has sent. -/
structure State where
  /-- The implementation parameters (00_scope.md R7); no step changes them. -/
  params : Params
  /-- The BFB bank `B[0]`, `B[1]`, ... (10_state.md R21). -/
  bank : List Buf
  /-- FD (10_state.md R23). -/
  fd : Fd
  /-- PC (10_state.md R25). -/
  pc : Pc
  /-- DG (10_state.md R27). -/
  dg : Dg
  /-- `DEC_TGT[0]`, `DEC_TGT[1]`, ... (10_state.md R28). -/
  decTgt : List Nat
  /-- RCD (10_state.md R29). -/
  rcd : Rcd
  /-- The CSR file (10_state.md R40). -/
  csr : Csr
  /-- `STATUS.lastFault` (10_state.md R41). -/
  lastFault : Status
  /-- `STATUS.lastCause` (10_state.md R41). -/
  lastCause : Cause
  /-- MODEL: the transfers waiting on the CMD port, the next first (00_scope.md R8, R9). -/
  cmd : List PortItem
  /-- MODEL: the hardware reset input is asserted (70_reset_and_hazards.md R360). -/
  resetIn : Bool
  /-- MODEL: for each decoder port the answers its decoder will give, the next call's first; after the last one the
  answers are free (10_state.md R33, entry 5). -/
  decAnswers : List (List DecAnswer)
  /-- MODEL: for each encoder port the answers its encoder will give, likewise. -/
  encAnswers : List (List EncAnswer)
  /-- MODEL: the output transactions so far, in order of emission (10_state.md R33). -/
  out : List Output
deriving DecidableEq, Repr

/-- Why the machine can stop for good. -/
inductive Fault where
  /-- Raised by `step` when a message record stands on the CMD port where a command word is due: the spec gives a
  record no meaning there (30_encoding.md R100, R113). SAFE: nothing is claimed of such a host. -/
  | strayMessage
deriving DecidableEq, Repr

/-- What the model does not run. -/
inductive Refusal where
  /-- Raised by `exec` for an instruction without a meaning; no arm of this model uses it. SAFE. -/
  | notModelled (mnemonic : String)
  /-- Raised by `step` for a message record that 40_message_model.md R131 says cannot be constructed. SAFE. -/
  | illFormedMessage
deriving DecidableEq, Repr

/-- The outcome of one command. -/
abbrev Result := Host.Outcome State Fault Refusal

/-- The CSR file after reset (10_state.md R40, R60). -/
def Csr.reset : Csr where
  route := 0x1B#64
  fdFlankLength := 3#64
  fdFlankSwing := 50#64
  fdFlankHoldoff := 0#64
  fdPwcUs := 0#64
  fdPushPeriodMs := 200#64
  fdPushClampUs := 0x410869F800000000#64
  pcTolerance := 0x3FB999999999999A#64
  rcdEomGapUs := 0x40DC520000000000#64
  rcdMaxMsgMs := 800#64
  rcdLevelReportHz := 10#64
  rcdLevelZeroMs := 1000#64

/-- The PPC with given parameters after reset (10_state.md R60), its ports empty. -/
def State.resetWith (p : Params) : State where
  params := p
  bank := List.replicate p.nbuf ⟨0, 0#64⟩
  fd := ⟨List.replicate p.fdHistMax 0#8, 0, .flat, false, 0⟩
  pc := ⟨[], false⟩
  dg := ⟨[], []⟩
  decTgt := List.replicate p.ndec 0
  rcd := ⟨.idle, false, [], [], 0, 0, 0, 0, 0⟩
  csr := Csr.reset
  lastFault := .ok
  lastCause := .none
  cmd := []
  resetIn := false
  decAnswers := List.replicate p.ndec []
  encAnswers := List.replicate p.nenc []
  out := []

/-- The PPC right after reset, with the default parameters (00_scope.md R7). -/
def State.reset : State := State.resetWith Config.params

end Sys2Proof.Machine
end

