-- ==== Sys2Proof/Machine/Ops.lean ====
section
/-! DEFINITION. The named operations the meanings share: output transactions, the OK response, raising a fault, reset,
the BFB bank, the calls on external agents, and the derived quantities of 10_state.md R24 and R31. -/

namespace Sys2Proof.Machine

/-- Sends one output transaction; what was sent stays sent (10_state.md R33). -/
def State.emit (s : State) (o : Output) : State := { s with out := s.out ++ [o] }

/-- `respond(v, list)` (30_encoding.md R108). -/
def respondList (v : Word64) (payload : List PayloadItem) (s : State) : State :=
  s.emit (.resp ⟨.ok, .none, v, payload⟩)

/-- `respond(v)` (30_encoding.md R108). -/
def respond (v : Word64) (s : State) : State := respondList v [] s

/-- A boolean result (R108). -/
def boolValue (b : Bool) : Word64 := if b then 1#64 else 0#64

/-- A natural number as an integer result (R108). -/
def natValue (n : Nat) : Word64 := BitVec.ofNat 64 n

/-- `raise F(c)`, the taking of a fault (60_exceptions.md R334): the sticky record, then the response. There is no
handler inside the PPC and nothing to return from (R336). -/
def raise (st : Status) (c : Cause) (s : State) : State :=
  State.emit { s with lastFault := st, lastCause := c } (.resp ⟨st, c, 0#64, []⟩)

/-- `raise InvalidArgument(c)`. -/
def raiseArg (c : Cause) (s : State) : State := raise .invalidArgument c s

/-- Every piece of PPC state at its reset value (10_state.md R60, 70_reset_and_hazards.md R360); the parameters, the
ports and the external agents are not PPC state (R33, R362). -/
def resetPpc (s : State) : State :=
  { State.resetWith s.params with
    cmd := s.cmd, resetIn := s.resetIn, decAnswers := s.decAnswers, encAnswers := s.encAnswers, out := s.out }

/-- The hardware reset input (70_reset_and_hazards.md R360): the same effect as `SYS.RESET`, without a command and so
without a response; the input is taken once (entry 4). -/
def hardwareReset (s : State) : State := { resetPpc s with resetIn := false }

/-- `B[b]`. -/
def State.buf (s : State) (b : Nat) : Buf := s.bank.getD b ⟨0, 0#64⟩

/-- `B[b] <- r`. -/
def State.setBuf (s : State) (b : Nat) (r : Buf) : State := { s with bank := s.bank.set b r }

/-- The first step of every BFB command: `BadIndex` unless `b < NBUF` (20_memory.md R76). -/
def onBuf (b : Byte) (s : State) (k : Buf → State) : State :=
  if b.toNat < s.params.nbuf then k (s.buf b.toNat) else raiseArg .badIndex s

/-- The first step of every DG command with a slot: `BadIndex` unless `i < NDEC` (20_memory.md R76). -/
def onSlot (i : Byte) (s : State) (k : Nat → State) : State :=
  if i.toNat < s.params.ndec then k i.toNat else raiseArg .badIndex s

/-- The first step of a command with a sink slot: `BadIndex` unless `k < NSINK` (20_memory.md R76). -/
def onSink (k : Byte) (s : State) (g : Nat → State) : State :=
  if k.toNat < s.params.nsink then g k.toNat else raiseArg .badIndex s

/-- `Sink(k, ev)` (42_contracts.md R188). -/
def State.sinkEvent (s : State) (k : Nat) (ev : SinkEvent) : State := s.emit (.sink k ev)

/-- The calls made so far on decoder port i, oldest first. -/
def State.decCalls (s : State) (i : Nat) : List DecCall :=
  s.out.filterMap fun o =>
    match o with
    | .dec j c => if j = i then some c else none
    | _ => none

/-- The calls made so far on encoder port e, oldest first. -/
def State.encCalls (s : State) (e : Nat) : List EncCall :=
  s.out.filterMap fun o =>
    match o with
    | .enc j c => if j = e then some c else none
    | _ => none

/-- The call is one that its decoder answers (42_contracts.md R181, R183). -/
def isParse : DecCall → Bool
  | .parse _ _ => true
  | .setTarget _ => false

/-- The decoder behind port i from now on: its answer to the last of the calls that follow on its port, a `parse`. It is
the answer presented for that `parse`, and after the last one presented a free function of all calls made on the port
(entry 5). It reads nothing of the PPC but what the port has carried (42_contracts.md R185 a, d, e, f; 20_memory.md R82). -/
def State.decoder (s : State) (i : Nat) (calls : List DecCall) : DecAnswer :=
  match (s.decAnswers.getD i [])[calls.dropLast.countP isParse]? with
  | some a => a
  | none => Config.decoder i (s.decCalls i ++ calls)

/-- The encoder behind port e from now on: its answer to the last of the calls that follow on its port (42_contracts.md
R186). It is the answer presented for that call, and after the last one presented a free function of all calls made on
the port (entry 5). It reads nothing of the PPC but the calls made on its own port, in their order (20_memory.md R82). -/
def State.encoder (s : State) (e : Nat) (calls : List EncCall) : EncAnswer :=
  match (s.encAnswers.getD e [])[calls.dropLast.length]? with
  | some a => a
  | none => Config.encoder e (s.encCalls e ++ calls)

/-- The answer presented first on decoder port i is taken. -/
def State.popDec (s : State) (i : Nat) : State := { s with decAnswers := s.decAnswers.modify i List.tail }

/-- The answer presented first on encoder port e is taken. -/
def State.popEnc (s : State) (e : Nat) : State := { s with encAnswers := s.encAnswers.modify e List.tail }

/-- 42_contracts.md R182: the events of decoder i go, in their order, to its target. -/
def deliver (i : Nat) (evs : List SinkEvent) (s : State) : State :=
  evs.foldl (fun t ev => t.sinkEvent (s.decTgt.getD i 0) ev) s

/-- `DEC[i].parse(d, m)` and the delivery of its events (42_contracts.md R181, R182): the code and the state after. -/
def callParse (i : Nat) (d : F64) (m : Bool) (s : State) : BitVec 32 × State :=
  let a := s.decoder i [.parse d m]
  (a.code, deliver i a.evs ((s.emit (.dec i (.parse d m))).popDec i))

/-- `DEC_TGT[i] <- k; DEC[i].setTarget(k)` (43_group.md R204, 42_contracts.md R183). -/
def callSetTarget (k : Nat) (s : State) (i : Nat) : State :=
  State.emit { s with decTgt := s.decTgt.set i k } (.dec i (.setTarget k))

/-- `ENC[e].encode(msg, phase)`, the phase as its bit (42_contracts.md R186): the answer and the state after. -/
def callEncode (e : Nat) (msg : Message) (ph : Phase) (s : State) : EncAnswer × State :=
  (s.encoder e [⟨msg, phaseBit ph⟩], (s.emit (.enc e ⟨msg, phaseBit ph⟩)).popEnc e)

/-- `us(n)` (44_flank.md R224). -/
def us (s : State) (n : Nat) : F64 := f64Div (f64Mul (f64OfNat n) f64Million) (f64OfNat s.fd.rate)

/-- `pushSamples()` (10_state.md R24). -/
def pushSamples (s : State) : Nat := s.fd.rate * s.csr.fdPushPeriodMs.toNat / 1000

/-- `maxSamples()` (10_state.md R31). -/
def maxSamples (s : State) : Nat := min (s.rcd.rate * s.csr.rcdMaxMsgMs.toNat / 1000) s.params.rcdSampleCap

/-- `reportSamples()` (10_state.md R31). -/
def reportSamples (s : State) : Nat := s.rcd.rate / s.csr.rcdLevelReportHz.toNat

/-- The quotient of two natural numbers, rounded up. -/
def ceilDiv (a b : Nat) : Nat := (a + (b - 1)) / b

/-- `decayStep()` (10_state.md R31). -/
def decayStep (s : State) : Nat :=
  ceilDiv (Config.levelFull * 1000) (s.csr.rcdLevelZeroMs.toNat * s.csr.rcdLevelReportHz.toNat)

end Sys2Proof.Machine
end

