-- ==== Sys2Proof/Machine/Operands.lean ====
section
/-! DEFINITION. Operand checks: integer operands are 64-bit two's complement (00_scope.md R11, 30_encoding.md R103),
fields (41_bitfield.md R151), and the legal values of the CSRs (10_state.md R40 to R55). -/

namespace Sys2Proof.Machine

/-- An integer operand lies between two bounds, both included. -/
def inRange (a : Word64) (lo hi : Int) : Bool := decide (lo ≤ a.toInt) && decide (a.toInt ≤ hi)

/-- 2 ^ 31 - 1, the upper bound of rates and of most integer CSRs. -/
def maxInt31 : Int := 2147483647

/-- `FieldOK(startBit, length)`, the sum in unbounded integers (41_bitfield.md R151). -/
def fieldOk (start len : Word64) : Bool :=
  decide (0 ≤ start.toInt) && decide (0 < len.toInt) && decide (start.toInt + len.toInt < 64)

/-- `mask(n)` (00_scope.md section 7). -/
def mask (n : Nat) : BitVec 64 := BitVec.ofNat 64 (2 ^ n - 1)

/-- `sext_n(v)` to 64 bits (00_scope.md section 7). -/
def sext (n : Nat) (v : BitVec 64) : BitVec 64 := (v.setWidth n).signExtend 64

/-- A legal sample rate (44_flank.md R222). -/
def rateOk (a : Word64) : Bool := inRange a 1 maxInt31

/-- A binary64 CSR value that is finite and at least 0.0; -0.0 is (48_system.md R312). -/
def nonNegFinite (a : F64) : Bool := f64IsFinite a && !f64Lt a f64Zero

/-- The CSR map (10_state.md R40); a number not in it is reserved (R55). -/
def csrOfNumber (n : Byte) : Option CsrName :=
  match n.toNat with
  | 0x00 => some .status
  | 0x01 => some .route
  | 0x10 => some .fdFlankLength
  | 0x11 => some .fdFlankSwing
  | 0x12 => some .fdFlankHoldoff
  | 0x13 => some .fdPwcUs
  | 0x14 => some .fdPushPeriodMs
  | 0x15 => some .fdPushClampUs
  | 0x16 => some .fdRate
  | 0x17 => some .fdPushSamples
  | 0x20 => some .pcTolerance
  | 0x21 => some .pcUsed
  | 0x30 => some .rcdEomGapUs
  | 0x31 => some .rcdMaxMsgMs
  | 0x32 => some .rcdLevelReportHz
  | 0x33 => some .rcdLevelZeroMs
  | 0x34 => some .rcdRate
  | 0x35 => some .rcdLevel
  | 0x36 => some .rcdNsamples
  | 0x37 => some .rcdNpulses
  | _ => none

/-- Access RO (10_state.md R40). -/
def csrReadOnly : CsrName → Bool
  | .status | .fdRate | .fdPushSamples | .pcUsed | .rcdRate | .rcdLevel | .rcdNsamples | .rcdNpulses => true
  | .route | .fdFlankLength | .fdFlankSwing | .fdFlankHoldoff | .fdPwcUs | .fdPushPeriodMs | .fdPushClampUs
  | .pcTolerance | .rcdEomGapUs | .rcdMaxMsgMs | .rcdLevelReportHz | .rcdLevelZeroMs => false

/-- The legal values of a CSR (10_state.md R40, R42 to R53); a read-only one has none. -/
def csrLegal (p : Params) (c : CsrName) (a : Word64) : Bool :=
  match c with
  | .route => a >>> 5 == 0#64
  | .fdFlankLength => inRange a 1 p.fdHistMax
  | .fdFlankSwing => inRange a 0 255
  | .fdFlankHoldoff => inRange a 0 maxInt31
  | .fdPwcUs => f64IsFinite a
  | .fdPushPeriodMs => inRange a 1 maxInt31
  | .fdPushClampUs => nonNegFinite a
  | .pcTolerance => nonNegFinite a
  | .rcdEomGapUs => nonNegFinite a
  | .rcdMaxMsgMs => inRange a 1 maxInt31
  | .rcdLevelReportHz => inRange a 1 maxInt31
  | .rcdLevelZeroMs => inRange a 1 maxInt31
  | .status | .fdRate | .fdPushSamples | .pcUsed | .rcdRate | .rcdLevel | .rcdNsamples | .rcdNpulses => false

/-- `CSR[n] <- A` for a writable register; a read-only one is left as it is. -/
def csrStore (c : CsrName) (a : Word64) (r : Csr) : Csr :=
  match c with
  | .route => { r with route := a }
  | .fdFlankLength => { r with fdFlankLength := a }
  | .fdFlankSwing => { r with fdFlankSwing := a }
  | .fdFlankHoldoff => { r with fdFlankHoldoff := a }
  | .fdPwcUs => { r with fdPwcUs := a }
  | .fdPushPeriodMs => { r with fdPushPeriodMs := a }
  | .fdPushClampUs => { r with fdPushClampUs := a }
  | .pcTolerance => { r with pcTolerance := a }
  | .rcdEomGapUs => { r with rcdEomGapUs := a }
  | .rcdMaxMsgMs => { r with rcdMaxMsgMs := a }
  | .rcdLevelReportHz => { r with rcdLevelReportHz := a }
  | .rcdLevelZeroMs => { r with rcdLevelZeroMs := a }
  | .status | .fdRate | .fdPushSamples | .pcUsed | .rcdRate | .rcdLevel | .rcdNsamples | .rcdNpulses => r

end Sys2Proof.Machine
end

