-- ==== Sys2Proof/Machine/Flags.lean ====
section
/-! DEFINITION. The status bits (10_state.md R32), the STATUS word (R41), the ROUTE enables (R42), the codes of
statuses and causes (60_exceptions.md R330, R331), and the value a CSR read gives (R40, R54). -/

namespace Sys2Proof.Machine

/-- R330. -/
def statusCode : Status → Byte
  | .ok => 0#8
  | .invalidArgument => 1#8
  | .rangeError => 2#8
  | .badMessage => 3#8
  | .illegalCommand => 4#8

/-- R331. -/
def causeCode : Cause → Byte
  | .none => 0#8
  | .badIndex => 1#8
  | .badLength => 2#8
  | .badBitPos => 3#8
  | .badField => 4#8
  | .badShift => 5#8
  | .badConfig => 6#8
  | .badCsr => 7#8
  | .rateNotSet => 8#8
  | .badCount => 9#8
  | .outputTooLong => 10#8
  | .full => 11#8

/-- `RCD.state` as a bit and as RCD's state code (10_state.md R29, 46_rawcapture.md R273). -/
def rcdBit : RcdMode → Bool
  | .idle => false
  | .capturing => true

/-- R41: the STATUS word, assembled when it is read. -/
def statusWord (s : State) : Word64 :=
  0#40 ++ causeCode s.lastCause ++ statusCode s.lastFault ++ 0#4 ++ BitVec.ofBool s.pc.ovf
    ++ BitVec.ofBool (s.rcd.free && rcdBit s.rcd.mode) ++ BitVec.ofBool (rcdBit s.rcd.mode)
    ++ BitVec.ofBool s.fd.pushed

/-- R42: pulses emitted by FD go to DG. -/
def dgEn (s : State) : Bool := s.csr.route.getLsbD 0

/-- R42: pulses emitted by FD go to RCD. -/
def rcdPulseEn (s : State) : Bool := s.csr.route.getLsbD 1

/-- R42: pulses emitted by FD go to PC. -/
def pcEn (s : State) : Bool := s.csr.route.getLsbD 2

/-- R42: `TOP.SAMPLE` feeds FD. -/
def fdSampleEn (s : State) : Bool := s.csr.route.getLsbD 3

/-- R42: `TOP.SAMPLE` feeds RCD. -/
def rcdSampleEn (s : State) : Bool := s.csr.route.getLsbD 4

/-- R311: the value of a CSR; a mirror gives the state it names, zero-extended (R54). -/
def csrValue (s : State) : CsrName → Word64
  | .status => statusWord s
  | .route => s.csr.route
  | .fdFlankLength => s.csr.fdFlankLength
  | .fdFlankSwing => s.csr.fdFlankSwing
  | .fdFlankHoldoff => s.csr.fdFlankHoldoff
  | .fdPwcUs => s.csr.fdPwcUs
  | .fdPushPeriodMs => s.csr.fdPushPeriodMs
  | .fdPushClampUs => s.csr.fdPushClampUs
  | .fdRate => natValue s.fd.rate
  | .fdPushSamples => natValue (pushSamples s)
  | .pcTolerance => s.csr.pcTolerance
  | .pcUsed => natValue s.pc.groups.length
  | .rcdEomGapUs => s.csr.rcdEomGapUs
  | .rcdMaxMsgMs => s.csr.rcdMaxMsgMs
  | .rcdLevelReportHz => s.csr.rcdLevelReportHz
  | .rcdLevelZeroMs => s.csr.rcdLevelZeroMs
  | .rcdRate => natValue s.rcd.rate
  | .rcdLevel => natValue s.rcd.level
  | .rcdNsamples => natValue s.rcd.samples.length
  | .rcdNpulses => natValue s.rcd.pulses.length

end Sys2Proof.Machine
end

