-- ==== Sys2Proof/Machine/Bfb.lean ====
section
/-! DEFINITION. The BFB commands (41_bitfield.md). Every one begins with the index check of `onBuf`. -/

namespace Sys2Proof.Machine

/-- R153, R152: `B[b] <- (A, B AND mask(A))`, `BadLength` unless 0 ≤ A ≤ 64. -/
def bfbConstruct (b : Byte) (a : Word64) (v : BitVec 64) (s : State) : State :=
  onBuf b s fun _ =>
    if inRange a 0 64 then respond 0#64 (s.setBuf b.toNat ⟨a.toNat, v &&& mask a.toNat⟩)
    else raiseArg .badLength s

/-- R156: bit p of the store written, the length grown to p + 1 if it was less. -/
def Buf.setBit (r : Buf) (p : Nat) (f : Bool) : Buf where
  len := if r.len ≤ p then p + 1 else r.len
  bits := (r.bits &&& ~~~(1#64 <<< p)) ||| (BitVec.setWidth 64 (BitVec.ofBool f) <<< p)

/-- R157: a bit appended at the top. -/
def Buf.addMsb (r : Buf) (f : Bool) : Buf := r.setBit r.len f

/-- R158: a bit appended at the bottom. -/
def Buf.addLsb (r : Buf) (f : Bool) : Buf where
  len := r.len + 1
  bits := (r.bits <<< 1) ||| BitVec.setWidth 64 (BitVec.ofBool f)

/-- R159: the field (p, n) written, the length grown to p + n if it was less. -/
def Buf.insert (r : Buf) (p n : Nat) (v : BitVec 64) : Buf where
  len := if r.len < p + n then p + n else r.len
  bits := (r.bits &&& ~~~(mask n <<< p)) ||| ((v &&& mask n) <<< p)

/-- R160: the field (p, n), unsigned. -/
def Buf.field (r : Buf) (p n : Nat) : BitVec 64 := (r.bits >>> p) &&& mask n

/-- R162: the store shifted right by n, zeros entering at the top, and the length shortened by n, not below 0. -/
def Buf.shiftRight (r : Buf) (n : Nat) : Buf where
  len := r.len - n
  bits := r.bits >>> n

/-- R163: the number of bytes that cover the length. -/
def Buf.byteCount (r : Buf) : Nat := ceilDiv r.len 8

/-- R163, 20_memory.md R73: byte i is the field (8 i, 8). -/
def Buf.bytes (r : Buf) : List Byte := (List.range r.byteCount).map fun i => (r.field (8 * i) 8).setWidth 8

/-- R152. -/
def execBfbNew (b : Byte) (a : Word64) (s : State) : Result := .next (bfbConstruct b a 0#64 s)

/-- R153. -/
def execBfbNewv (b : Byte) (a v : Word64) (s : State) : Result := .next (bfbConstruct b a v s)

/-- R154. -/
def execBfbClear (b : Byte) (s : State) : Result :=
  .next (onBuf b s fun _ => respond 0#64 (s.setBuf b.toNat ⟨0, 0#64⟩))

/-- R166. -/
def execBfbLen (b : Byte) (s : State) : Result := .next (onBuf b s fun r => respond (natValue r.len) s)

/-- R155: a position at or above the length reads 0 by 10_state.md R22. -/
def execBfbGetbit (b : Byte) (a : Word64) (s : State) : Result :=
  .next (onBuf b s fun r =>
    if inRange a 0 63 then respond (boolValue (r.bits.getLsbD a.toNat)) s else raiseArg .badBitPos s)

/-- R156. -/
def execBfbSetbit (b : Byte) (a : Word64) (f : Bool) (s : State) : Result :=
  .next (onBuf b s fun r =>
    if inRange a 0 63 then respond 0#64 (s.setBuf b.toNat (r.setBit a.toNat f)) else raiseArg .badBitPos s)

/-- R157. -/
def execBfbAddmsb (b : Byte) (f : Bool) (s : State) : Result :=
  .next (onBuf b s fun r =>
    if r.len = Config.bfbCap then raise .rangeError .full s
    else respond 0#64 (s.setBuf b.toNat (r.addMsb f)))

/-- R158. -/
def execBfbAddlsb (b : Byte) (f : Bool) (s : State) : Result :=
  .next (onBuf b s fun r =>
    if r.len = Config.bfbCap then raise .rangeError .full s
    else respond 0#64 (s.setBuf b.toNat (r.addLsb f)))

/-- R159. -/
def execBfbInsert (b : Byte) (a l v : Word64) (s : State) : Result :=
  .next (onBuf b s fun r =>
    if fieldOk a l then respond 0#64 (s.setBuf b.toNat (r.insert a.toNat l.toNat v)) else raiseArg .badField s)

/-- R160. -/
def execBfbExtu (b : Byte) (a l : Word64) (s : State) : Result :=
  .next (onBuf b s fun r =>
    if fieldOk a l then respond (r.field a.toNat l.toNat) s else raiseArg .badField s)

/-- R161: under `compat` as R160, under `signext` the field's top bit is its sign. -/
def extsValue (m : SxtMode) (l : Nat) (u : BitVec 64) : BitVec 64 :=
  match m with
  | .compat => u
  | .signext => sext l u

/-- R161. -/
def execBfbExts (b : Byte) (a l : Word64) (s : State) : Result :=
  .next (onBuf b s fun r =>
    if fieldOk a l then respond (extsValue s.params.sxtMode l.toNat (r.field a.toNat l.toNat)) s
    else raiseArg .badField s)

/-- R162: the response is the old bit 0, whatever the distance. -/
def execBfbShr (b : Byte) (a : Word64) (s : State) : Result :=
  .next (onBuf b s fun r =>
    if inRange a 0 64 then
      respond (boolValue (r.bits.getLsbD 0)) (s.setBuf b.toNat (r.shiftRight a.toNat))
    else raiseArg .badShift s)

/-- R163: `BadField` when one of the bytes is not a legal field. -/
def execBfbTobytes (b : Byte) (s : State) : Result :=
  .next (onBuf b s fun r =>
    if (List.range r.byteCount).all (fun i => fieldOk (natValue (8 * i)) 8#64) then
      respondList (natValue r.byteCount) (r.bytes.map .byte) s
    else raiseArg .badField s)

/-- R164. -/
def execBfbEq (b b2 : Byte) (s : State) : Result :=
  .next (onBuf b s fun r => onBuf b2 s fun r2 =>
    respond (boolValue (r.len == r2.len && r.bits == r2.bits)) s)

/-- R165. -/
def execBfbHash (b : Byte) (s : State) : Result :=
  .next (onBuf b s fun r => respond ((Config.hashFn r.len r.bits).setWidth 64) s)

end Sys2Proof.Machine
end

