-- ==== Sys2Proof/Machine/Mr.lean ====
section
/-! DEFINITION. MR, the message repeater (47_repeater.md). -/

namespace Sys2Proof.Machine

/-- `n` copies of a sequence, back to back (R300). -/
def copies {α : Type} (n : Nat) (l : List α) : List α := (List.replicate n l).flatten

/-- R300, R302: the train, or `OutputTooLong`, after both encoder calls. -/
def repeatTrain (n : Nat) (pre rep : List F64) (s : State) : State :=
  if s.params.mrOutCap < pre.length + rep.length * n then raiseArg .outputTooLong s
  else respondList (natValue (pre ++ copies n rep).length) ((pre ++ copies n rep).map .duration) s

/-- R301: the REPEATED call, after the FIRST call answered `pre`. -/
def repeatSecond (e : Nat) (n : Nat) (msg : Message) (pre : List F64) (s : State) : State :=
  match callEncode e msg .repeated s with
  | (.badMessage, t) => raise .badMessage .none t
  | (.pulses rep, t) => repeatTrain n pre rep t

/-- R300, R301: the FIRST call and what follows it. -/
def repeatFirst (e : Nat) (n : Nat) (msg : Message) (s : State) : State :=
  match callEncode e msg .first s with
  | (.badMessage, t) => raise .badMessage .none t
  | (.pulses pre, t) => repeatSecond e n msg pre t

/-- R300. -/
def execMrRepeat (e : Byte) (n : Word64) (msg : Message) (s : State) : Result :=
  .next (if s.params.nenc ≤ e.toNat then raiseArg .badIndex s
    else if n.toInt < 0 then raiseArg .badCount s
    else repeatFirst e.toNat n.toNat msg s)

end Sys2Proof.Machine
end

