-- ==== Sys2Proof/Machine/Dg.lean ====
section
/-! DEFINITION. DG, the decoder group (43_group.md). -/

namespace Sys2Proof.Machine

/-- R201: i is a member. -/
def Dg.member (g : Dg) (i : Nat) : Bool := g.active.contains i || g.passive.contains i

/-- R201: a new member joins the active list at its end. -/
def Dg.add (g : Dg) (i : Nat) : Dg := if g.member i then g else { g with active := g.active ++ [i] }

/-- `L - x`, the list without x, the order of the rest kept (R200). -/
def leaveList (l : List Nat) (i : Nat) : List Nat := l.filter (· != i)

/-- R202: i leaves the list that holds it. -/
def Dg.remove (g : Dg) (i : Nat) : Dg :=
  if g.active.contains i then { g with active := leaveList g.active i }
  else { g with passive := leaveList g.passive i }

/-- R203: `L ++ [i]` unless i is in L. -/
def joinList (l : List Nat) (i : Nat) : List Nat := if l.contains i then l else l ++ [i]

/-- R203: i leaves the other list and joins the chosen one. -/
def Dg.setActive (g : Dg) (i : Nat) (f : Bool) : Dg :=
  if f then { active := joinList g.active i, passive := leaveList g.passive i }
  else { active := leaveList g.active i, passive := joinList g.passive i }

/-- One round of R205: the next active decoder is called and its code kept. -/
def parseStep (d : F64) (m : Bool) (acc : BitVec 32 × State) (i : Nat) : BitVec 32 × State :=
  callParse i d m acc.2

/-- R205: one pulse to every active decoder in list order; the code of the last one called, 0 if none is. -/
def dgParse (d : F64) (m : Bool) (s : State) : BitVec 32 × State :=
  s.dg.active.foldl (parseStep d m) (0#32, s)

/-- R201. -/
def execDgAdd (i : Byte) (s : State) : Result :=
  .next (onSlot i s fun i => respond (boolValue (!s.dg.member i)) { s with dg := s.dg.add i })

/-- R202. -/
def execDgRemove (i : Byte) (s : State) : Result :=
  .next (onSlot i s fun i => respond (boolValue (s.dg.member i)) { s with dg := s.dg.remove i })

/-- R203. -/
def execDgSetactive (i : Byte) (f : Bool) (s : State) : Result :=
  .next (onSlot i s fun i => respond 0#64 { s with dg := s.dg.setActive i f })

/-- R204: active members first, each list in its own order. -/
def execDgSettarget (k : Byte) (s : State) : Result :=
  .next (onSink k s fun k => respond 0#64 ((s.dg.active ++ s.dg.passive).foldl (callSetTarget k) s))

/-- R205. -/
def execDgParse (d : F64) (f : Bool) (s : State) : Result :=
  .next (respond ((dgParse d f s).1.setWidth 64) (dgParse d f s).2)

end Sys2Proof.Machine
end

