-- ==== Sys2Proof/Machine/Pc.lean ====
section
/-! DEFINITION. PC, the pulse classifier (45_classifier.md). -/

namespace Sys2Proof.Machine

/-- `avg(g)` (10_state.md R26), `none` when the division's result is a NaN. -/
def Group.avg? (g : Group) : Option F64 :=
  if g.count = 0 then some g.center else f64Div? g.sum (f64OfNat g.count)

/-- `avg(g)` as the bits that `PC.GET` reports. -/
def Group.avg (g : Group) : F64 := if g.count = 0 then g.center else f64Div g.sum (f64OfNat g.count)

/-- `fabs(1.0 - d / avg(g))` (R251), `none` when it is a NaN. -/
def Group.deviation? (g : Group) (d : F64) : Option F64 :=
  match g.avg? with
  | none => none
  | some a =>
    match f64Div? d a with
    | none => none
    | some q => (f64Sub? f64One q).map f64Abs

/-- `Match(g, d, m)` (R251) at a tolerance; a NaN deviation does not match. -/
def Group.matches (tol d : F64) (m : Bool) (g : Group) : Bool :=
  g.isMark == m &&
    match g.deviation? d with
    | none => false
    | some x => f64Lt x tol

/-- R252: the group after it accepted a pulse. -/
def Group.accept (g : Group) (d : F64) : Group :=
  { g with
    min := if g.count = 0 then d else fmin g.min d
    max := if g.count = 0 then d else fmax g.max d
    sum := f64Add g.sum d
    count := g.count + 1 }

/-- R253: the group a pulse opens. -/
def newGroup (d : F64) (m : Bool) : Group := ⟨m, false, f64Zero, d, 1, d, d⟩

/-- R255: the group a primer pulse opens. -/
def newPrimer (d : F64) (m : Bool) : Group := ⟨m, true, d, f64Zero, 0, d, d⟩

/-- The index of the first group that matches, in creation order (R252, R255). -/
def firstMatch (tol d : F64) (m : Bool) (gs : List Group) : Option Nat :=
  gs.findIdx? (Group.matches tol d m)

/-- R252, R254 and R255: the group appended, or the pulse dropped when the table is full. -/
def pcAppend (g : Group) (s : State) : Word64 × State :=
  if s.pc.groups.length = s.params.pcNgroups then
    (BitVec.allOnes 64, { s with pc := { s.pc with ovf := true } })
  else (natValue s.pc.groups.length, { s with pc := { s.pc with groups := s.pc.groups ++ [g] } })

/-- The steps of `PC.ADD d, m`, and the value it responds with (R252). -/
def pcAdd (d : F64) (m : Bool) (s : State) : Word64 × State :=
  match firstMatch s.csr.pcTolerance d m s.pc.groups with
  | some g => (natValue g, { s with pc := { s.pc with groups := s.pc.groups.modify g (Group.accept · d) } })
  | none => pcAppend (newGroup d m) s

/-- The steps of `PC.PRIME d, m`, and the value it responds with (R255). -/
def pcPrime (d : F64) (m : Bool) (s : State) : Word64 × State :=
  match firstMatch s.csr.pcTolerance d m s.pc.groups with
  | some g => (natValue g, s)
  | none => pcAppend (newPrimer d m) s

/-- R257: the report of a group. -/
def Group.report (g : Group) : GroupReport := ⟨g.isMark, g.count, g.avg, g.min, g.max, g.sum⟩

/-- R257: a group of greater count comes first; between equal counts a free key decides, fresh at every `serial`
(93_implementation_defined.md U3, entry 7). -/
def reportBefore (serial : Nat) (a b : Group × Nat) : Bool :=
  if b.1.count < a.1.count then true
  else if a.1.count < b.1.count then false
  else decide (Config.tieKey serial a.2 ≤ Config.tieKey serial b.2)

/-- R257: the groups that accepted a pulse, by descending count. -/
def pcReports (s : State) : List GroupReport :=
  (((s.pc.groups.zipIdx).filter fun g => decide (0 < g.1.count)).insertionSort
    fun a b => reportBefore s.out.length a b = true).map fun g => g.1.report

/-- R252. -/
def execPcAdd (d : F64) (f : Bool) (s : State) : Result := .next (respond (pcAdd d f s).1 (pcAdd d f s).2)

/-- R255. -/
def execPcPrime (d : F64) (f : Bool) (s : State) : Result := .next (respond (pcPrime d f s).1 (pcPrime d f s).2)

/-- R257. -/
def execPcGet (s : State) : Result :=
  .next (respondList (natValue (pcReports s).length) ((pcReports s).map .group) s)

/-- R258. -/
def execPcReset (s : State) : Result := .next (respond 0#64 { s with pc := ⟨[], false⟩ })

end Sys2Proof.Machine
end

