-- ==== Sys2Proof/Machine/Rcd.lean ====
section
/-! DEFINITION. RCD, the raw capture decoder (46_rawcapture.md). -/

namespace Sys2Proof.Machine

/-- The string "Raw" (R282, R286). -/
def rawName : Text := ['R', 'a', 'w']

/-- R286: RCD's ProtocolInfo. -/
def rcdInfo : ProtocolInfo := ⟨rawName, rawName, [], 0, 0⟩

/-- R282: the inherited part of a RawMessage. -/
def rawBase : ProtocolMessage := ⟨[], rawName, [], 0#64, 0#64, 0#64, []⟩

/-- R281: how many samples a message keeps. -/
def Rcd.keep (r : Rcd) : Nat :=
  if r.free then r.samples.length
  else
    match r.pulses.getLast? with
    | some p => p.offset
    | none => 0

/-- `RawMessageOf(keep)` (R282). -/
def Rcd.message (r : Rcd) (keep : Nat) : RawMessage :=
  ⟨rawBase, r.pulses.map RcdPulse.offset, r.samples.take keep, r.rate, r.pulses.map RcdPulse.dur⟩

/-- `EndOfMessage()` (R281). -/
def endOfMessage (s : State) : State :=
  let t := s.sinkEvent s.rcd.target (.parsedMessage (.raw (s.rcd.message s.rcd.keep)))
  { t with rcd := { t.rcd with mode := .idle, free := false } }

/-- The start of a capture (R274, R283). -/
def startCapture (free : Bool) (budget : Nat) (s : State) : State :=
  { s with rcd := { s.rcd with mode := .capturing, free := free, samples := [], pulses := [], budget := budget } }

/-- R274: the pulses that start a capture. -/
def startsCapture (d : F64) (m : Bool) : Bool := !m && f64Lt f64Zero d && f64Lt d Config.rcdStartMaxUs

/-- R275: a pulse recorded. -/
def recordPulse (d : F64) (s : State) : State :=
  { s with rcd := { s.rcd with pulses := s.rcd.pulses ++ [⟨s.rcd.samples.length, d⟩] } }

/-- The steps of `RCD.PARSE d, m` without the response (R273). -/
def rcdParse (d : F64) (m : Bool) (s : State) : State :=
  match s.rcd.mode with
  | .idle => if startsCapture d m then startCapture false (maxSamples s) s else s
  | .capturing =>
    if f64Lt d s.csr.rcdEomGapUs || s.rcd.free then
      (if s.rcd.pulses.length = s.params.rcdPulseCap then endOfMessage s else recordPulse d s)
    else if 1 < s.rcd.pulses.length then endOfMessage s
    else s

/-- R280: the absolute magnitude of a sample, from mid-scale. -/
def magnitude (smp : Byte) : Nat := ((smp.toNat : Int) - 128).natAbs

/-- R280: the level risen to a magnitude and the interval counter advanced. -/
def levelRise (smp : Byte) (s : State) : State :=
  { s with rcd := { s.rcd with level := max s.rcd.level (magnitude smp), levelCtr := s.rcd.levelCtr + 1 } }

/-- R280: at the end of the interval the level is reported, then decays. -/
def levelReport (s : State) : State :=
  if reportSamples s ≤ s.rcd.levelCtr then
    let t := s.sinkEvent s.rcd.target (.reportLevel s.rcd.level)
    { t with rcd := { t.rcd with level := t.rcd.level - decayStep t, levelCtr := 0 } }
  else s

/-- R279: a sample recorded while capturing, the message ended when the budget is reached. -/
def recordSample (smp : Byte) (s : State) : State :=
  match s.rcd.mode with
  | .idle => s
  | .capturing =>
    let t := { s with rcd := { s.rcd with samples := s.rcd.samples ++ [smp] } }
    if t.rcd.budget ≤ t.rcd.samples.length then endOfMessage t else t

/-- The steps of `RCD.ADDSAMPLE` without the check and the response (R278). -/
def rcdSample (smp : Byte) (s : State) : State := recordSample smp (levelReport (levelRise smp s))

/-- R273. -/
def execRcdParse (d : F64) (f : Bool) (s : State) : Result :=
  .next (respond (boolValue (rcdBit (rcdParse d f s).rcd.mode)) (rcdParse d f s))

/-- R278. -/
def execRcdAddsample (smp : Byte) (s : State) : Result :=
  .next (if s.rcd.rate = 0 then raiseArg .rateNotSet s else respond 0#64 (rcdSample smp s))

/-- R284. -/
def execRcdSetrate (a : Word64) (s : State) : Result :=
  .next (if rateOk a then respond 0#64 { s with rcd := { s.rcd with rate := a.toNat } } else raiseArg .badConfig s)

/-- R285. -/
def execRcdSettarget (k : Byte) (s : State) : Result :=
  .next (onSink k s fun k => respond 0#64 { s with rcd := { s.rcd with target := k } })

/-- R283. -/
def execRcdStartfree (a : Word64) (s : State) : Result :=
  .next (if inRange a 1 s.params.rcdSampleCap then respond 0#64 (startCapture true a.toNat s)
    else raiseArg .badCount s)

/-- R286. -/
def execRcdGetinfo (s : State) : Result := .next (respondList 1#64 [.info rcdInfo] s)

end Sys2Proof.Machine
end

