-- ==== Sys2Proof/Machine/Fd.lean ====
section
/-! DEFINITION. FD, the flank detector (44_flank.md), and the pulse fan-out it drives (48_system.md R317). -/

namespace Sys2Proof.Machine

/-- R317: a pulse goes to the trace port. -/
def tracePulse (d : F64) (m : Bool) (s : State) : State := s.emit (.pulse d m)

/-- R317: DG's branch of the fan-out. -/
def fanDg (d : F64) (m : Bool) (s : State) : State := if dgEn s then (dgParse d m s).2 else s

/-- R317: RCD's branch of the fan-out. -/
def fanRcd (d : F64) (m : Bool) (s : State) : State := if rcdPulseEn s then rcdParse d m s else s

/-- R317: PC's branch of the fan-out. -/
def fanPc (d : F64) (m : Bool) (s : State) : State := if pcEn s then (pcAdd d m s).2 else s

/-- `EmitPulse(d, m)` (R317): the trace port, then DG, RCD and PC. -/
def emitPulse (d : F64) (m : Bool) (s : State) : State := fanPc d m (fanRcd d m (fanDg d m (tracePulse d m s)))

/-- R221: the sign of a difference. -/
def dirOf (diff : Int) : Dir := if 0 < diff then .rise else if diff < 0 then .fall else .flat

/-- R225: the sample `FD_FLANK_LENGTH` positions back. -/
def fdOld (s : State) : Byte := s.fd.hist.getD (s.csr.fdFlankLength.toNat - 1) 0#8

/-- R221: the difference between the current sample and the one it is compared with. -/
def fdDiff (smp : Byte) (s : State) : Int := (smp.toNat : Int) - ((fdOld s).toNat : Int)

/-- R223: a flank is accepted at the current sample, `FD.cnt` counting it. -/
def flankAccepted (smp : Byte) (s : State) : Bool :=
  decide (s.csr.fdFlankSwing.toNat < (fdDiff smp s).natAbs) && decide (dirOf (fdDiff smp s) ≠ s.fd.lastDir)
    && decide (s.csr.fdFlankHoldoff.toNat < s.fd.cnt + 1)

/-- R225: the history with the current sample in it, its depth kept. -/
def shiftHist (smp : Byte) (hist : List Byte) : List Byte := (smp :: hist).take hist.length

/-- R221: the counter advanced and the history shifted, before the tests. -/
def fdAdvance (smp : Byte) (s : State) : State :=
  { s with fd := { s.fd with hist := shiftHist smp s.fd.hist, cnt := s.fd.cnt + 1 } }

/-- R221, R226, R227: the duration an accepted flank reports, `cnt` samples after the previous flank or push. -/
def flankDuration (s : State) (cnt : Nat) (isMark : Bool) : F64 :=
  if s.fd.pushed then s.csr.fdPushClampUs
  else if isMark then f64Add (us s cnt) s.csr.fdPwcUs
  else f64Sub (us s cnt) s.csr.fdPwcUs

/-- R226, R229: an accepted flank of direction `dir` at an advanced state. -/
def fdFlank (dir : Dir) (s : State) : State :=
  emitPulse (flankDuration s s.fd.cnt (dir == .fall)) (dir == .fall)
    { s with fd := { s.fd with lastDir := dir, cnt := 0, pushed := false } }

/-- R228: the watchdog push at an advanced state. -/
def fdPush (s : State) : State :=
  emitPulse f64Zero true
    (emitPulse (us s s.fd.cnt) false { s with fd := { s.fd with cnt := 0, pushed := true } })

/-- The steps of `FD.SAMPLE` without the check and the response (R221, R230). -/
def fdSample (smp : Byte) (s : State) : State :=
  if flankAccepted smp s then fdFlank (dirOf (fdDiff smp s)) (fdAdvance smp s)
  else if pushSamples s ≤ s.fd.cnt + 1 then fdPush (fdAdvance smp s)
  else fdAdvance smp s

/-- R221. -/
def execFdSample (smp : Byte) (s : State) : Result :=
  .next (if s.fd.rate = 0 then raiseArg .rateNotSet s else respond 0#64 (fdSample smp s))

/-- R222. -/
def execFdSetrate (a : Word64) (s : State) : Result :=
  .next (if rateOk a then respond 0#64 { s with fd := { s.fd with rate := a.toNat } } else raiseArg .badConfig s)

end Sys2Proof.Machine
end

