-- ==== Sys2Proof/Machine/Sys.lean ====
section
/-! DEFINITION. SYS, the system unit (48_system.md), and the refusal of an illegal command word (60_exceptions.md
R333). -/

namespace Sys2Proof.Machine

/-- R333: a command word that matches no row. -/
def illegalCommand (s : State) : State := raise .illegalCommand .none s

/-- R310. -/
def execNop (s : State) : Result := .next (respond 0#64 s)

/-- R311. -/
def execCsrRd (n : Byte) (s : State) : Result :=
  .next (match csrOfNumber n with
    | none => raiseArg .badCsr s
    | some c => respond (csrValue s c) s)

/-- R312: `BadCsr`, then `BadConfig`. -/
def execCsrWr (n : Byte) (a : Word64) (s : State) : Result :=
  .next (match csrOfNumber n with
    | none => raiseArg .badCsr s
    | some c =>
      if csrReadOnly c then raiseArg .badCsr s
      else if csrLegal s.params c a then respond 0#64 { s with csr := csrStore c a s.csr }
      else raiseArg .badConfig s)

/-- R313. -/
def execSysReset (s : State) : Result := .next (respond 0#64 (resetPpc s))

/-- R315. -/
def execTopSetrate (a : Word64) (s : State) : Result :=
  .next (if rateOk a then
      respond 0#64 { s with fd := { s.fd with rate := a.toNat }, rcd := { s.rcd with rate := a.toNat } }
    else raiseArg .badConfig s)

/-- R316: a unit that is to consume the sample has no rate. -/
def topRateMissing (s : State) : Bool :=
  (fdSampleEn s && s.fd.rate == 0) || (rcdSampleEn s && s.rcd.rate == 0)

/-- R316: FD's part of the sample path. -/
def topFd (smp : Byte) (s : State) : State := if fdSampleEn s then fdSample smp s else s

/-- R316: RCD's part of the sample path. -/
def topRcd (smp : Byte) (s : State) : State := if rcdSampleEn s then rcdSample smp s else s

/-- R316: FD goes first. -/
def execTopSample (smp : Byte) (s : State) : Result :=
  .next (if topRateMissing s then raiseArg .rateNotSet s else respond 0#64 (topRcd smp (topFd smp s)))

end Sys2Proof.Machine
end

