-- ==== Sys2Proof/Machine/Dispatch.lean ====
section
/-! DEFINITION. One arm per command, each one call of its meaning. -/

namespace Sys2Proof.Machine

open Host

def exec (i : Instr) (s : State) : Host.Outcome State Fault Refusal :=
  match i with
  | .nop => Sys2Proof.Machine.execNop s
  | .csrRd n => Sys2Proof.Machine.execCsrRd n s
  | .csrWr n a => Sys2Proof.Machine.execCsrWr n a s
  | .sysReset => Sys2Proof.Machine.execSysReset s
  | .topSample smp => Sys2Proof.Machine.execTopSample smp s
  | .topSetrate a => Sys2Proof.Machine.execTopSetrate a s
  | .bfbNew b a => Sys2Proof.Machine.execBfbNew b a s
  | .bfbNewv b a v => Sys2Proof.Machine.execBfbNewv b a v s
  | .bfbClear b => Sys2Proof.Machine.execBfbClear b s
  | .bfbLen b => Sys2Proof.Machine.execBfbLen b s
  | .bfbGetbit b a => Sys2Proof.Machine.execBfbGetbit b a s
  | .bfbSetbit b a f => Sys2Proof.Machine.execBfbSetbit b a f s
  | .bfbAddmsb b f => Sys2Proof.Machine.execBfbAddmsb b f s
  | .bfbAddlsb b f => Sys2Proof.Machine.execBfbAddlsb b f s
  | .bfbInsert b a l v => Sys2Proof.Machine.execBfbInsert b a l v s
  | .bfbExtu b a l => Sys2Proof.Machine.execBfbExtu b a l s
  | .bfbExts b a l => Sys2Proof.Machine.execBfbExts b a l s
  | .bfbShr b a => Sys2Proof.Machine.execBfbShr b a s
  | .bfbTobytes b => Sys2Proof.Machine.execBfbTobytes b s
  | .bfbEq b b2 => Sys2Proof.Machine.execBfbEq b b2 s
  | .bfbHash b => Sys2Proof.Machine.execBfbHash b s
  | .fdSample smp => Sys2Proof.Machine.execFdSample smp s
  | .fdSetrate a => Sys2Proof.Machine.execFdSetrate a s
  | .pcAdd d f => Sys2Proof.Machine.execPcAdd d f s
  | .pcPrime d f => Sys2Proof.Machine.execPcPrime d f s
  | .pcGet => Sys2Proof.Machine.execPcGet s
  | .pcReset => Sys2Proof.Machine.execPcReset s
  | .dgParse d f => Sys2Proof.Machine.execDgParse d f s
  | .dgAdd d => Sys2Proof.Machine.execDgAdd d s
  | .dgRemove d => Sys2Proof.Machine.execDgRemove d s
  | .dgSetactive d f => Sys2Proof.Machine.execDgSetactive d f s
  | .dgSettarget k => Sys2Proof.Machine.execDgSettarget k s
  | .rcdParse d f => Sys2Proof.Machine.execRcdParse d f s
  | .rcdAddsample smp => Sys2Proof.Machine.execRcdAddsample smp s
  | .rcdSetrate a => Sys2Proof.Machine.execRcdSetrate a s
  | .rcdSettarget k => Sys2Proof.Machine.execRcdSettarget k s
  | .rcdStartfree a => Sys2Proof.Machine.execRcdStartfree a s
  | .rcdGetinfo => Sys2Proof.Machine.execRcdGetinfo s
  | .mrRepeat e n msg => Sys2Proof.Machine.execMrRepeat e n msg s

end Sys2Proof.Machine
end

