-- ==== Sys2Proof/Machine/Step.lean ====
section
/-! DEFINITION. One step: one command of the CMD port, to completion (00_scope.md R8, R9). -/

namespace Sys2Proof.Machine

/-- The transfers a step takes are gone from the CMD port. -/
def State.withCmd (s : State) (rest : List PortItem) : State := { s with cmd := rest }

/-- R8: the command at the front of the CMD port is carried out. With no command, or with one whose operands have not
all arrived, the PPC does nothing (42_contracts.md R191, 60_exceptions.md R346, 93_implementation_defined.md U16). The
hardware reset input comes before any command (70_reset_and_hazards.md R360). -/
def step (s : State) : Host.Outcome State Fault Refusal :=
  if s.resetIn then .next (hardwareReset s)
  else
    match decode s.cmd with
    | .idle => .next s
    | .waiting => .next s
    | .illegal rest => .next (illegalCommand (s.withCmd rest))
    | .strayMessage => .fault .strayMessage
    | .illFormedMessage => .refused .illFormedMessage
    | .command i rest => exec i (s.withCmd rest)

/-- The command of an opcode-table word stands at the front of the CMD port, and no reset is asserted. -/
def State.withFetchWord (s : State) (nbits w : Nat) : State :=
  { s with cmd := tableItems nbits w ++ s.cmd, resetIn := false }

end Sys2Proof.Machine
end

