-- ==== Sys2Proof/Safety.lean ====
section
/-! DEFINITION. The terms the statements are made in: the machine's invariant (00_scope.md R7, 10_state.md R22, R25,
R27, R29, R40, 46_rawcapture.md R279, 43_group.md R206, 60_exceptions.md R331), what a command answers, which faults a
command can raise (60_exceptions.md R332), the duties of a decoder (42_contracts.md R185), and a correctly rounded
number (00_scope.md R12). -/

namespace Sys2Proof.Machine

/-- The ranges of 00_scope.md R7. -/
abbrev ParamsInv (p : Params) : Prop :=
  (1 ≤ p.nbuf ∧ p.nbuf ≤ 256) ∧ (3 ≤ p.fdHistMax ∧ p.fdHistMax ≤ 255) ∧ p.ndec ≤ 256 ∧ p.nenc ≤ 256 ∧
    (1 ≤ p.nsink ∧ p.nsink ≤ 256) ∧ 1 ≤ p.pcNgroups ∧ 1 ≤ p.rcdSampleCap ∧ 2 ≤ p.rcdPulseCap

/-- 10_state.md R22: the length is at most 64 and no bit at or above it is set. -/
abbrev BufInv (r : Buf) : Prop := r.len ≤ 64 ∧ r.bits.toNat < 2 ^ r.len

/-- 10_state.md R21, R22. -/
abbrev BankInv (s : State) : Prop := s.bank.length = s.params.nbuf ∧ ∀ r ∈ s.bank, BufInv r

/-- 10_state.md R23. -/
abbrev FdInv (s : State) : Prop := s.fd.hist.length = s.params.fdHistMax ∧ s.fd.rate < 2 ^ 31

/-- 10_state.md R25, R26. -/
abbrev GroupInv (g : Group) : Prop :=
  (g.count = 0 → g.primer = true ∧ g.sum = f64Zero ∧ g.min = g.center ∧ g.max = g.center) ∧
    (g.primer = false → g.center = f64Zero)

/-- 10_state.md R25. -/
abbrev PcInv (s : State) : Prop := s.pc.groups.length ≤ s.params.pcNgroups ∧ ∀ g ∈ s.pc.groups, GroupInv g

/-- 43_group.md R206. -/
abbrev DgInv (s : State) : Prop :=
  s.dg.active.Nodup ∧ s.dg.passive.Nodup ∧ (∀ i ∈ s.dg.active, i ∉ s.dg.passive) ∧
    (∀ i ∈ s.dg.active, i < s.params.ndec) ∧ ∀ i ∈ s.dg.passive, i < s.params.ndec

/-- 10_state.md R28. -/
abbrev TargetInv (s : State) : Prop :=
  s.decTgt.length = s.params.ndec ∧ (∀ k ∈ s.decTgt, k < s.params.nsink) ∧ s.rcd.target < s.params.nsink

/-- 10_state.md R29, 46_rawcapture.md R279, R281, R282. -/
abbrev RcdInv (s : State) : Prop :=
  s.rcd.rate < 2 ^ 31 ∧ s.rcd.level ≤ Config.levelFull ∧ s.rcd.budget ≤ s.params.rcdSampleCap ∧
    s.rcd.samples.length ≤ max s.rcd.budget 1 ∧ s.rcd.pulses.length ≤ s.params.rcdPulseCap ∧
    (∀ p ∈ s.rcd.pulses, p.offset ≤ s.rcd.samples.length) ∧ (s.rcd.mode = .idle → s.rcd.free = false) ∧
    (s.rcd.mode = .capturing → s.rcd.samples = [] ∨ s.rcd.samples.length < s.rcd.budget)

/-- The writable CSRs (10_state.md R40). -/
def writableCsrs : List CsrName :=
  [.route, .fdFlankLength, .fdFlankSwing, .fdFlankHoldoff, .fdPwcUs, .fdPushPeriodMs, .fdPushClampUs, .pcTolerance,
    .rcdEomGapUs, .rcdMaxMsgMs, .rcdLevelReportHz, .rcdLevelZeroMs]

/-- 10_state.md R40: every writable CSR holds a legal value. -/
abbrev CsrInv (s : State) : Prop := ∀ c ∈ writableCsrs, csrLegal s.params c (csrValue s c) = true

/-- 60_exceptions.md R331: a cause and a status that come together. -/
def causeFits (st : Status) (c : Cause) : Bool :=
  match c with
  | .none => st == .ok || st == .badMessage || st == .illegalCommand
  | .full => st == .rangeError
  | .badIndex | .badLength | .badBitPos | .badField | .badShift | .badConfig | .badCsr | .rateNotSet | .badCount
  | .outputTooLong => st == .invalidArgument

/-- The invariant of the PPC. -/
abbrev PpcInv (s : State) : Prop :=
  ParamsInv s.params ∧ BankInv s ∧ FdInv s ∧ PcInv s ∧ DgInv s ∧ TargetInv s ∧ RcdInv s ∧ CsrInv s ∧
    causeFits s.lastFault s.lastCause = true

/-- The command leaves the state `t` and responds OK with a value and a payload (30_encoding.md R108). -/
def Answers (i : Instr) (s t : State) (v : Word64) (l : List PayloadItem) : Prop :=
  exec i s = .next { t with out := t.out ++ [.resp ⟨.ok, .none, v, l⟩] }

/-- The command is refused with a fault: nothing changes but the sticky record, and the response is the fault
(60_exceptions.md R334). -/
def Faults (i : Instr) (s : State) (st : Status) (c : Cause) : Prop :=
  exec i s = .next { s with lastFault := st, lastCause := c, out := s.out ++ [.resp ⟨st, c, 0#64, []⟩] }

/-- The port transfers of operand words (30_encoding.md R100; the order of a word's halves is entry 3). -/
def operandWords (ws : List Word64) : List PortItem :=
  ws.flatMap fun a => [.word (a.extractLsb' 0 32), .word (a.extractLsb' 32 32)]

/-- The command's transfers: the command word with given fields, then others (30_encoding.md R100, R101). -/
def CodedAs (i : Instr) (op sel sel2 imm : Byte) (ops : List PortItem) : Prop :=
  encode i = .word (op ++ sel ++ sel2 ++ imm) :: ops

/-- A boolean operand in `IMM8` (30_encoding.md R104). -/
def immFlag (f : Bool) : Byte := if f then 1#8 else 0#8

/-- A legal field of R151, the sum in unbounded integers. -/
def LegalField (a l : Word64) : Prop := 0 ≤ a.toInt ∧ 0 < l.toInt ∧ a.toInt + l.toInt < 64

/-- What a decoder knows of itself once a sequence of calls has been made on its port (42_contracts.md R181, R185). Which
pulses are noise and which bits are decoded is the decoder's own account: the spec gives no test for either (DESIGN
CHOICE, safe, entry 5). -/
structure DecoderAccount where
  /-- The state of its machine after the calls, as its code. -/
  state : List DecCall → BitVec 32
  /-- It is idle after the calls. -/
  idle : List DecCall → Bool
  /-- The pulse of the last call is noise to it. -/
  noise : List DecCall → Bool
  /-- The bits it had successfully decoded when it raised a given event of its answer to the last call, whatever it
  resets after that. -/
  bits : List DecCall → Nat → Nat

/-- 42_contracts.md R185: the duties of a decoder, by its own account: (a) on noise its machine stays in its state or
resets to idle, (b) the code answered to a pulse is its state after the pulse, 0 iff it is then idle, (c) a partial parse
is raised only with some bits decoded before it. The others hold by the type of `answer`: it answers every pulse and
never faults (a), by code and events alone (d), from the calls on its port alone (e, f). -/
def DecoderDuties (answer : List DecCall → DecAnswer) (acc : DecoderAccount) : Prop :=
  ∀ (before : List DecCall) (d : F64) (m : Bool),
    let calls := before ++ [.parse d m]
    (acc.noise calls = true → acc.state calls = acc.state before ∨ acc.idle calls = true) ∧
    (answer calls).code = acc.state calls ∧
    ((answer calls).code = 0#32 ↔ acc.idle calls = true) ∧
    ∀ (k : Nat) name n, (answer calls).evs[k]? = some (.partiallyParsed name n) → 0 < acc.bits calls k

/-- `num / den`, in units of 2 ^ -1074, is rounded to `r` as 00_scope.md R12 has it: to a nearest finite number, of two
nearest the one with an even last place; from half a place past the largest finite number on, to an infinity; the sign
kept. -/
def RoundedTo (r : F64) (num : Int) (den : Nat) : Prop :=
  let limit : Nat := (2 ^ 54 - 1) * 2 ^ 2044
  (num.natAbs < limit * den →
    f64IsFinite r = true ∧ ∀ y : F64, f64IsFinite y = true →
      |f64Int r * den - num| ≤ |f64Int y * den - num| ∧
      (|f64Int r * den - num| = |f64Int y * den - num| → f64Int y ≠ f64Int r → r.getLsbD 0 = false)) ∧
  (limit * den ≤ num.natAbs → f64IsInf r = true) ∧
  (num < 0 → f64Sign r = true) ∧ (0 < num → f64Sign r = false)

/-- Match and mask of every row of the opcode map (R110), in its order. -/
def opcodeMap : List (Word × Word) :=
  [(0x00000000#32, 0xFFFFFFFF#32), (0x01000000#32, 0xFF00FFFF#32), (0x02000000#32, 0xFF00FFFF#32),
   (0x03000000#32, 0xFFFFFFFF#32), (0x04000000#32, 0xFFFFFF00#32), (0x05000000#32, 0xFFFFFFFF#32),
   (0x10000000#32, 0xFF00FFFF#32), (0x11000000#32, 0xFF00FFFF#32), (0x12000000#32, 0xFF00FFFF#32),
   (0x13000000#32, 0xFF00FFFF#32), (0x14000000#32, 0xFF00FFFF#32), (0x15000000#32, 0xFF00FFFE#32),
   (0x16000000#32, 0xFF00FFFE#32), (0x17000000#32, 0xFF00FFFE#32), (0x18000000#32, 0xFF00FFFF#32)] ++
  [(0x19000000#32, 0xFF00FFFF#32), (0x1A000000#32, 0xFF00FFFF#32), (0x1B000000#32, 0xFF00FFFF#32),
   (0x1C000000#32, 0xFF00FFFF#32), (0x1D000000#32, 0xFF0000FF#32), (0x1E000000#32, 0xFF00FFFF#32),
   (0x20000000#32, 0xFFFFFF00#32), (0x21000000#32, 0xFFFFFFFF#32), (0x30000000#32, 0xFFFFFFFE#32),
   (0x31000000#32, 0xFFFFFFFE#32), (0x32000000#32, 0xFFFFFFFF#32), (0x33000000#32, 0xFFFFFFFF#32)] ++
  [(0x40000000#32, 0xFFFFFFFE#32), (0x41000000#32, 0xFF00FFFF#32), (0x42000000#32, 0xFF00FFFF#32),
   (0x43000000#32, 0xFF00FFFE#32), (0x44000000#32, 0xFFFF00FF#32), (0x50000000#32, 0xFFFFFFFE#32),
   (0x51000000#32, 0xFFFFFF00#32), (0x52000000#32, 0xFFFFFFFF#32), (0x53000000#32, 0xFFFF00FF#32),
   (0x54000000#32, 0xFFFFFFFF#32), (0x55000000#32, 0xFFFFFFFF#32), (0x60000000#32, 0xFF00FFFF#32)]

/-- The output is a response. -/
def Output.isResp : Output → Bool
  | .resp _ => true
  | .dec _ _ | .enc _ _ | .sink _ _ | .pulse _ _ => false

/-- 60_exceptions.md R332: the faults a command can raise. -/
def possibleFaults : Instr → List (Status × Cause)
  | .csrRd _ => [(.invalidArgument, .badCsr)]
  | .csrWr _ _ => [(.invalidArgument, .badCsr), (.invalidArgument, .badConfig)]
  | .topSample _ | .fdSample _ | .rcdAddsample _ => [(.invalidArgument, .rateNotSet)]
  | .topSetrate _ | .fdSetrate _ | .rcdSetrate _ => [(.invalidArgument, .badConfig)]
  | .bfbNew _ _ | .bfbNewv _ _ _ => [(.invalidArgument, .badIndex), (.invalidArgument, .badLength)]
  | .bfbClear _ | .bfbLen _ | .bfbHash _ | .bfbEq _ _ => [(.invalidArgument, .badIndex)]
  | .bfbGetbit _ _ | .bfbSetbit _ _ _ => [(.invalidArgument, .badIndex), (.invalidArgument, .badBitPos)]
  | .bfbAddmsb _ _ | .bfbAddlsb _ _ => [(.invalidArgument, .badIndex), (.rangeError, .full)]
  | .bfbInsert _ _ _ _ | .bfbExtu _ _ _ | .bfbExts _ _ _ | .bfbTobytes _ =>
    [(.invalidArgument, .badIndex), (.invalidArgument, .badField)]
  | .bfbShr _ _ => [(.invalidArgument, .badIndex), (.invalidArgument, .badShift)]
  | .dgAdd _ | .dgRemove _ | .dgSetactive _ _ | .dgSettarget _ | .rcdSettarget _ => [(.invalidArgument, .badIndex)]
  | .rcdStartfree _ => [(.invalidArgument, .badCount)]
  | .mrRepeat _ _ _ =>
    [(.invalidArgument, .badIndex), (.invalidArgument, .badCount), (.badMessage, .none),
      (.invalidArgument, .outputTooLong)]
  | .nop | .sysReset | .pcAdd _ _ | .pcPrime _ _ | .pcGet | .pcReset | .dgParse _ _ | .rcdParse _ _ | .rcdGetinfo => []

/-- 20_memory.md R80: the commands that only read. -/
def readsOnly : Instr → Bool
  | .csrRd _ | .bfbLen _ | .bfbGetbit _ _ | .bfbExtu _ _ _ | .bfbExts _ _ _ | .bfbTobytes _ | .bfbEq _ _ | .bfbHash _
  | .pcGet | .rcdGetinfo => true
  | .nop | .csrWr _ _ | .sysReset | .topSample _ | .topSetrate _ | .bfbNew _ _ | .bfbNewv _ _ _ | .bfbClear _
  | .bfbSetbit _ _ _ | .bfbAddmsb _ _ | .bfbAddlsb _ _ | .bfbInsert _ _ _ _ | .bfbShr _ _ | .fdSample _ | .fdSetrate _
  | .pcAdd _ _ | .pcPrime _ _ | .pcReset | .dgParse _ _ | .dgAdd _ | .dgRemove _ | .dgSetactive _ _ | .dgSettarget _
  | .rcdParse _ _ | .rcdAddsample _ | .rcdSetrate _ | .rcdSettarget _ | .rcdStartfree _ | .mrRepeat _ _ _ => false

/-- 20_memory.md R70: the commands that write the BFB bank. -/
def writesBank : Instr → Bool
  | .bfbNew _ _ | .bfbNewv _ _ _ | .bfbClear _ | .bfbSetbit _ _ _ | .bfbAddmsb _ _ | .bfbAddlsb _ _ | .bfbInsert _ _ _ _
  | .bfbShr _ _ => true
  | _ => false

/-- 20_memory.md R70 (`FD.hist`), 44_flank.md R222, 48_system.md R315: the commands that write FD's state. -/
def writesFd : Instr → Bool
  | .fdSample _ | .topSample _ | .fdSetrate _ | .topSetrate _ => true
  | _ => false

/-- 20_memory.md R70: the commands that write `FD.hist`. -/
def writesHist : Instr → Bool
  | .fdSample _ | .topSample _ => true
  | _ => false

/-- 20_memory.md R70: the commands that write the group table and its overflow bit. -/
def writesPc : Instr → Bool
  | .pcAdd _ _ | .pcPrime _ _ | .pcReset | .fdSample _ | .topSample _ => true
  | _ => false

/-- 20_memory.md R70: the commands that write the membership lists. -/
def writesDg : Instr → Bool
  | .dgAdd _ | .dgRemove _ | .dgSetactive _ _ => true
  | _ => false

/-- 20_memory.md R70: the commands that write `DEC_TGT`. -/
def writesTargets : Instr → Bool
  | .dgSettarget _ => true
  | _ => false

/-- 20_memory.md R70, 46_rawcapture.md R273 to R285, 48_system.md R315: the commands that write RCD's state. -/
def writesRcd : Instr → Bool
  | .rcdParse _ _ | .rcdAddsample _ | .rcdSetrate _ | .rcdSettarget _ | .rcdStartfree _ | .fdSample _ | .topSample _
  | .topSetrate _ => true
  | _ => false

/-- 20_memory.md R70: the commands that write entries of the RCD sample buffer. -/
def writesRcdSamples : Instr → Bool
  | .rcdAddsample _ | .topSample _ => true
  | _ => false

/-- 20_memory.md R70: the commands that write entries of the RCD pulse buffers, by `RCD.PARSE` or the fan-out. -/
def writesRcdPulses : Instr → Bool
  | .rcdParse _ _ | .fdSample _ | .topSample _ => true
  | _ => false

/-- 46_rawcapture.md R274, R283: the commands that can start a capture, which sets both counts to 0. -/
def startsRcdCapture : Instr → Bool
  | .rcdParse _ _ | .rcdStartfree _ | .fdSample _ | .topSample _ => true
  | _ => false

/-- 20_memory.md R70: the command that writes the CSR file. -/
def writesCsr : Instr → Bool
  | .csrWr _ _ => true
  | _ => false

end Sys2Proof.Machine
end

