-- ==== Sys2Proof/Certificates/Slice0/Obligations.lean ====
section
/-! DEFINITION. The statements about the PPC. -/

open Sys2Proof Sys2Proof.Machine

/-! ### Encoding (30_encoding.md) -/

/-- Tier 3. Decoding the transfers of a command gives that command and leaves what follows it; every term of `Instr` is
a well-formed command (40_message_model.md R131). The order of an operand word's halves on the port is the model's (log
entry 3). -/
def Obligations.DecodeOfEncodeIsTheCommand : Prop :=
  ∀ (i : Instr) (rest : List PortItem), decode (encode i ++ rest) = .command i rest

/-- Tier 3. A command is decoded from its own transfers only, and a record among them is well formed; a record with an
empty name, with both payloads or with neither (40_message_model.md R131) gives no command. The order of an operand
word's halves and the refusal of such a record by name are the model's (log entries 3 and 13). -/
def Obligations.DecodedTransfersAreTheEncoding : Prop :=
  (∀ (items : List PortItem) (i : Instr) (rest : List PortItem), decode items = .command i rest →
    items = encode i ++ rest ∧ ∀ m, .message m ∈ encode i → messageRecordWf m = true) ∧
  ∀ (e : Byte) (n : Word64) (m : MessageRecord) (rest : List PortItem), messageRecordWf m = false →
    decode (.word (0x60#8 ++ e ++ 0#8 ++ 0#8) :: (operandWords [n] ++ .message m :: rest)) = .illFormedMessage

/-- Tier 2. R106, R111: a command word is illegal exactly when it matches no row of the opcode map, and then what
follows it is left on the port. The spec marks R106 as its own inference, and the port as a list is the model's (log
entry 1). -/
def Obligations.IllegalWordsAreThoseMatchingNoRow : Prop :=
  ∀ (w : Word) (rest : List PortItem),
    decode (.word w :: rest) = .illegal rest ↔ ∀ r ∈ opcodeMap, w &&& r.2 ≠ r.1

/-- Tier 1. A few command words written out from R110 decode to the commands they stand for. In the clause for MR.REPEAT
the word alone is written out: that zero operand words follow it, and the empty message its operand A, is the model's
`decodeTableWord` (log entry 1), so the operand 0 and the message `[]` are the model's. In the clause for BFB.NEW the
operand word is written out, its halves in the model's order (log entry 3). -/
def Obligations.WrittenOutWordsDecode : Prop :=
  decodeTableWord 32 0x00000000 = some .nop ∧
  decodeTableWord 32 0x01200000 = some (.csrRd 0x20#8) ∧
  decodeTableWord 32 0x040000C8 = some (.topSample 200#8) ∧
  decodeTableWord 32 0x1D010200 = some (.bfbEq 1#8 2#8) ∧
  decodeTableWord 32 0x17030001 = some (.bfbAddlsb 3#8 true) ∧
  decodeTableWord 32 0x20000033 = some (.fdSample 0x33#8) ∧
  decodeTableWord 32 0x32000000 = some .pcGet ∧
  decodeTableWord 32 0x43050001 = some (.dgSetactive 5#8 true) ∧
  decodeTableWord 32 0x53000100 = some (.rcdSettarget 1#8) ∧
  decodeTableWord 32 0x60020000 = some (.mrRepeat 2#8 0#64 []) ∧
  decode [.word 0x10000000#32, .word 0xFFFFFFFF#32, .word 0x7FFFFFFF#32]
    = .command (.bfbNew 0#8 0x7FFFFFFFFFFFFFFF#64) [] ∧
  decodeTableWord 32 0x15000002 = none ∧ decodeTableWord 32 0x70000000 = none

/-! ### The step (00_scope.md R8, R9) -/

/-- Tier 1. With no reset asserted and a command at the front of the CMD port, the step is that command's, its
transfers taken from the port. The port as a list of transfers is the model's (log entry 1). -/
def Obligations.StepRunsTheDecodedCommand : Prop :=
  ∀ (s : State) (i : Instr) (rest : List PortItem),
    s.resetIn = false → decode s.cmd = .command i rest → step s = exec i { s with cmd := rest }

/-- Tier 2. R333: a command word matching no row is refused with status 4 and cause 0, takes no operand word and
changes nothing but the fault record. The port as a list of transfers is the model's (log entry 1). -/
def Obligations.IllegalCommandWordIsRefused : Prop :=
  ∀ (s : State) (w : Word) (rest : List PortItem),
    s.resetIn = false → s.cmd = .word w :: rest → (∀ r ∈ opcodeMap, w &&& r.2 ≠ r.1) →
    statusCode .illegalCommand = 4#8 ∧ causeCode .none = 0#8 ∧
    step s = .next { s with
      cmd := rest, lastFault := .illegalCommand, lastCause := .none
      out := s.out ++ [.resp ⟨.illegalCommand, .none, 0#64, []⟩] }

/-- Tier 1. R346: a PPC that receives no command does nothing and keeps all its state; nor does it do anything while
operands of a command are missing (log entry 6). -/
def Obligations.NoCommandChangesNothing : Prop :=
  ∀ s : State, s.resetIn = false →
    (s.cmd = [] → step s = .next s) ∧
    (∀ (i : Instr) (k : Nat), k < (encode i).length → 0 < k →
      s.cmd = (encode i).take k → step s = .next s)

/-- Tier 1. R360: the hardware reset input gives the state of `SYS.RESET`. The model's are that the input is taken before
any command and once, that no response is sent (log entry 4), and that the ports keep what they hold: the waiting
commands, the presented answers and the output log (log entries 4 and 10). -/
def Obligations.HardwareResetLoadsTheResetState : Prop :=
  ∀ s : State, s.resetIn = true →
    step s = .next { State.resetWith s.params with
      cmd := s.cmd, decAnswers := s.decAnswers, encAnswers := s.encAnswers, out := s.out }

/-! ### Reset and the invariant -/

/-- Tier 1. R60: the value of every piece of state after reset, for every choice of the parameters. -/
def Obligations.ResetStateValues : Prop :=
  ∀ p : Params,
    let s := State.resetWith p
    (∀ b, b < p.nbuf → s.bank[b]? = some ⟨0, 0#64⟩) ∧
    (∀ k, k < p.fdHistMax → s.fd.hist[k]? = some 0#8) ∧
    s.fd.cnt = 0 ∧ s.fd.lastDir = .flat ∧ s.fd.pushed = false ∧ s.fd.rate = 0 ∧ s.rcd.rate = 0 ∧
    s.pc.groups = [] ∧ s.pc.ovf = false ∧ s.dg.active = [] ∧ s.dg.passive = [] ∧
    (∀ i, i < p.ndec → s.decTgt[i]? = some 0) ∧
    s.rcd.mode = .idle ∧ s.rcd.free = false ∧ s.rcd.samples.length = 0 ∧ s.rcd.pulses.length = 0 ∧
    s.rcd.budget = 0 ∧ s.rcd.level = 0 ∧ s.rcd.levelCtr = 0 ∧ s.rcd.target = 0 ∧
    statusCode s.lastFault = 0#8 ∧ causeCode s.lastCause = 0#8 ∧
    s.csr.route = 0x1B#64 ∧ s.csr.fdFlankLength = 3#64 ∧ s.csr.fdFlankSwing = 50#64 ∧
    s.csr.fdFlankHoldoff = 0#64 ∧ s.csr.fdPwcUs = 0#64 ∧ s.csr.fdPushPeriodMs = 200#64 ∧
    s.csr.fdPushClampUs = 0x410869F800000000#64 ∧ s.csr.pcTolerance = 0x3FB999999999999A#64 ∧
    s.csr.rcdEomGapUs = 0x40DC520000000000#64 ∧ s.csr.rcdMaxMsgMs = 800#64 ∧
    s.csr.rcdLevelReportHz = 10#64 ∧ s.csr.rcdLevelZeroMs = 1000#64

/-- Tier 1. The invariant holds after reset with the default parameters. That these are the machine's invariants
together is the model's inference from the rules named at `PpcInv`. -/
def Obligations.InvariantHoldsAtReset : Prop := PpcInv State.reset

/-- Tier 3. The invariant is kept by every step: the BFB registers (R22), the membership lists (R206), the group table
(R25), RCD's counts (R279), the legal CSR values (R40) and the fault record (R331). The spec marks R167 and R206 as
its own inferences; the conjunction is the model's. -/
def Obligations.EveryStepKeepsTheInvariant : Prop :=
  ∀ s t : State, PpcInv s → step s = .next t → PpcInv t

/-! ### Rules about every command -/

/-- Tier 2. R108: every command yields exactly one response, and it is its last output. -/
def Obligations.EveryCommandRespondsOnceAndLast : Prop :=
  ∀ (i : Instr) (s : State), ∃ (t : State) (mid : List Output) (r : Response),
    exec i s = .next t ∧ t.out = s.out ++ mid ++ [.resp r] ∧ ∀ o ∈ mid, o.isResp = false

/-- Tier 2. R334: a command whose response is a fault changes nothing but the sticky record, its response holds the
fault with value 0 and no payload, and, but for `MR.REPEAT`, it made no other output. -/
def Obligations.FaultingCommandChangesOnlyTheRecord : Prop :=
  ∀ (i : Instr) (s t : State) (pre : List Output) (r : Response),
    exec i s = .next t → t.out = pre ++ [.resp r] → r.status ≠ .ok →
    r.value = 0#64 ∧ r.payload = [] ∧
    t = { s with lastFault := r.status, lastCause := r.cause, encAnswers := t.encAnswers, out := t.out } ∧
    ((∀ e n msg, i ≠ .mrRepeat e n msg) → t.encAnswers = s.encAnswers ∧ pre = s.out)

/-- Tier 2. R332: a command faults only with the faults listed for it; a command not in the table never faults. The
spec marks R332 as its own inference. -/
def Obligations.CommandsFaultOnlyAsListed : Prop :=
  ∀ (i : Instr) (s t : State) (pre : List Output) (r : Response),
    exec i s = .next t → t.out = pre ++ [.resp r] → r.status ≠ .ok → (r.status, r.cause) ∈ possibleFaults i

/-- Tier 2. R387: a command that responds OK leaves the sticky fault record alone, unless it is `SYS.RESET`. The spec
marks R387 as its own inference. -/
def Obligations.SuccessLeavesTheFaultRecord : Prop :=
  ∀ (i : Instr) (s t : State) (pre : List Output) (r : Response),
    exec i s = .next t → t.out = pre ++ [.resp r] → r.status = .ok → i ≠ .sysReset →
    t.lastFault = s.lastFault ∧ t.lastCause = s.lastCause

/-- Tier 2. R80: the reading commands that respond OK change nothing but the output. The spec marks R80 as its own
inference. -/
def Obligations.ReadsHaveNoSideEffect : Prop :=
  ∀ (i : Instr) (s t : State) (pre : List Output) (r : Response),
    readsOnly i = true → exec i s = .next t → t.out = pre ++ [.resp r] → r.status = .ok →
    pre = s.out ∧ t = { s with out := t.out }

/-- Tier 2. R70: but for `SYS.RESET`, each storage space is written only by its own commands; RCD's buffers are the
lists of their valid entries (log entry 15), which the start of a capture empties. No command changes the parameters or
what waits on the CMD port, which are fields of the model (log entries 1 and 2). -/
def Obligations.StorageIsWrittenOnlyByItsOwnCommands : Prop :=
  ∀ (i : Instr) (s t : State), i ≠ .sysReset → exec i s = .next t →
    (writesBank i = false → t.bank = s.bank) ∧ (writesFd i = false → t.fd = s.fd) ∧
    (writesHist i = false → t.fd.hist = s.fd.hist) ∧
    (writesRcdSamples i = false →
      t.rcd.samples = s.rcd.samples ∨ (startsRcdCapture i = true ∧ t.rcd.samples = [])) ∧
    (writesRcdPulses i = false →
      t.rcd.pulses = s.rcd.pulses ∨ (startsRcdCapture i = true ∧ t.rcd.pulses = [])) ∧
    (writesPc i = false → t.pc = s.pc) ∧ (writesDg i = false → t.dg = s.dg) ∧
    (writesTargets i = false → t.decTgt = s.decTgt) ∧ (writesRcd i = false → t.rcd = s.rcd) ∧
    (writesCsr i = false → t.csr = s.csr) ∧
    t.params = s.params ∧ t.cmd = s.cmd ∧ t.resetIn = s.resetIn

/-! ### BFB (41_bitfield.md). Every statement gives the command's words, its faults and the whole next state. -/

/-- Tier 2. R152. The order of an operand word's halves on the port is the model's (log entry 3). -/
def Obligations.BfbNewConstructsAnEmptyValue : Prop :=
  ∀ (b : Byte) (a : Word64) (s : State),
    CodedAs (.bfbNew b a) 0x10#8 b 0#8 0#8 (operandWords [a]) ∧
    (s.params.nbuf ≤ b.toNat → Faults (.bfbNew b a) s .invalidArgument .badIndex) ∧
    (b.toNat < s.params.nbuf → (a.toInt < 0 ∨ 64 < a.toInt) → Faults (.bfbNew b a) s .invalidArgument .badLength) ∧
    (b.toNat < s.params.nbuf → 0 ≤ a.toInt → a.toInt ≤ 64 →
      Answers (.bfbNew b a) s { s with bank := s.bank.set b.toNat ⟨a.toInt.toNat, 0#64⟩ } 0#64 [])

/-- Tier 2. R153: bits of the raw value at or above the length are dropped. The order of an operand word's halves on
the port is the model's (log entry 3). -/
def Obligations.BfbNewvKeepsTheLowBits : Prop :=
  ∀ (b : Byte) (a v : Word64) (s : State),
    CodedAs (.bfbNewv b a v) 0x11#8 b 0#8 0#8 (operandWords [a, v]) ∧
    (s.params.nbuf ≤ b.toNat → Faults (.bfbNewv b a v) s .invalidArgument .badIndex) ∧
    (b.toNat < s.params.nbuf → (a.toInt < 0 ∨ 64 < a.toInt) →
      Faults (.bfbNewv b a v) s .invalidArgument .badLength) ∧
    (b.toNat < s.params.nbuf → 0 ≤ a.toInt → a.toInt ≤ 64 → ∃ r : Buf,
      Answers (.bfbNewv b a v) s { s with bank := s.bank.set b.toNat r } 0#64 [] ∧
      r.len = a.toInt.toNat ∧ ∀ j, j < 64 → r.bits.getLsbD j = (decide (j < a.toInt.toNat) && v.getLsbD j))

/-- Tier 2. R154. -/
def Obligations.BfbClearEmptiesTheBuffer : Prop :=
  ∀ (b : Byte) (s : State),
    CodedAs (.bfbClear b) 0x12#8 b 0#8 0#8 [] ∧
    (s.params.nbuf ≤ b.toNat → Faults (.bfbClear b) s .invalidArgument .badIndex) ∧
    (b.toNat < s.params.nbuf →
      Answers (.bfbClear b) s { s with bank := s.bank.set b.toNat ⟨0, 0#64⟩ } 0#64 [])

/-- Tier 2. R166. -/
def Obligations.BfbLenReadsTheLength : Prop :=
  ∀ (b : Byte) (s : State),
    CodedAs (.bfbLen b) 0x13#8 b 0#8 0#8 [] ∧
    (s.params.nbuf ≤ b.toNat → Faults (.bfbLen b) s .invalidArgument .badIndex) ∧
    (b.toNat < s.params.nbuf → Answers (.bfbLen b) s s (BitVec.ofNat 64 (s.buf b.toNat).len) [])

/-- Tier 2. R155. The order of an operand word's halves on the port is the model's (log entry 3). -/
def Obligations.BfbGetbitReadsOneBit : Prop :=
  ∀ (b : Byte) (a : Word64) (s : State),
    CodedAs (.bfbGetbit b a) 0x14#8 b 0#8 0#8 (operandWords [a]) ∧
    (s.params.nbuf ≤ b.toNat → Faults (.bfbGetbit b a) s .invalidArgument .badIndex) ∧
    (b.toNat < s.params.nbuf → (a.toInt < 0 ∨ 63 < a.toInt) →
      Faults (.bfbGetbit b a) s .invalidArgument .badBitPos) ∧
    (b.toNat < s.params.nbuf → 0 ≤ a.toInt → a.toInt ≤ 63 →
      Answers (.bfbGetbit b a) s s (if (s.buf b.toNat).bits.getLsbD a.toInt.toNat then 1#64 else 0#64) []) ∧
    (BufInv (s.buf b.toNat) → ∀ j, (s.buf b.toNat).len ≤ j → (s.buf b.toNat).bits.getLsbD j = false)

/-- Tier 2. R156. The order of an operand word's halves on the port is the model's (log entry 3). -/
def Obligations.BfbSetbitWritesOneBitAndGrows : Prop :=
  ∀ (b : Byte) (a : Word64) (f : Bool) (s : State),
    CodedAs (.bfbSetbit b a f) 0x15#8 b 0#8 (immFlag f) (operandWords [a]) ∧
    (s.params.nbuf ≤ b.toNat → Faults (.bfbSetbit b a f) s .invalidArgument .badIndex) ∧
    (b.toNat < s.params.nbuf → (a.toInt < 0 ∨ 63 < a.toInt) →
      Faults (.bfbSetbit b a f) s .invalidArgument .badBitPos) ∧
    (b.toNat < s.params.nbuf → 0 ≤ a.toInt → a.toInt ≤ 63 → ∃ r : Buf,
      Answers (.bfbSetbit b a f) s { s with bank := s.bank.set b.toNat r } 0#64 [] ∧
      r.len = max (s.buf b.toNat).len (a.toInt.toNat + 1) ∧
      ∀ j, j < 64 → r.bits.getLsbD j = if j = a.toInt.toNat then f else (s.buf b.toNat).bits.getLsbD j)

/-- Tier 2. R157. -/
def Obligations.BfbAddmsbAppendsAtTheTop : Prop :=
  ∀ (b : Byte) (f : Bool) (s : State),
    CodedAs (.bfbAddmsb b f) 0x16#8 b 0#8 (immFlag f) [] ∧
    (s.params.nbuf ≤ b.toNat → Faults (.bfbAddmsb b f) s .invalidArgument .badIndex) ∧
    (b.toNat < s.params.nbuf → (s.buf b.toNat).len = 64 → Faults (.bfbAddmsb b f) s .rangeError .full) ∧
    (b.toNat < s.params.nbuf → (s.buf b.toNat).len ≠ 64 → ∃ r : Buf,
      Answers (.bfbAddmsb b f) s { s with bank := s.bank.set b.toNat r } 0#64 [] ∧
      r.len = (s.buf b.toNat).len + 1 ∧
      ∀ j, j < 64 → r.bits.getLsbD j = if j = (s.buf b.toNat).len then f else (s.buf b.toNat).bits.getLsbD j)

/-- Tier 2. R158. -/
def Obligations.BfbAddlsbAppendsAtTheBottom : Prop :=
  ∀ (b : Byte) (f : Bool) (s : State),
    CodedAs (.bfbAddlsb b f) 0x17#8 b 0#8 (immFlag f) [] ∧
    (s.params.nbuf ≤ b.toNat → Faults (.bfbAddlsb b f) s .invalidArgument .badIndex) ∧
    (b.toNat < s.params.nbuf → (s.buf b.toNat).len = 64 → Faults (.bfbAddlsb b f) s .rangeError .full) ∧
    (b.toNat < s.params.nbuf → (s.buf b.toNat).len ≠ 64 → ∃ r : Buf,
      Answers (.bfbAddlsb b f) s { s with bank := s.bank.set b.toNat r } 0#64 [] ∧
      r.len = (s.buf b.toNat).len + 1 ∧ r.bits.getLsbD 0 = f ∧
      ∀ j, j < 63 → r.bits.getLsbD (j + 1) = (s.buf b.toNat).bits.getLsbD j)

/-- Tier 2. R159: the field's bits come from the value's low bits, the others are unchanged. The order of an operand
word's halves on the port is the model's (log entry 3). -/
def Obligations.BfbInsertWritesTheField : Prop :=
  ∀ (b : Byte) (a l v : Word64) (s : State),
    CodedAs (.bfbInsert b a l v) 0x18#8 b 0#8 0#8 (operandWords [a, l, v]) ∧
    (s.params.nbuf ≤ b.toNat → Faults (.bfbInsert b a l v) s .invalidArgument .badIndex) ∧
    (b.toNat < s.params.nbuf → ¬LegalField a l → Faults (.bfbInsert b a l v) s .invalidArgument .badField) ∧
    (b.toNat < s.params.nbuf → LegalField a l → ∃ r : Buf,
      Answers (.bfbInsert b a l v) s { s with bank := s.bank.set b.toNat r } 0#64 [] ∧
      r.len = max (s.buf b.toNat).len (a.toInt + l.toInt).toNat ∧
      ∀ j, j < 64 → r.bits.getLsbD j =
        if a.toInt ≤ (j : Int) ∧ (j : Int) < a.toInt + l.toInt then v.getLsbD (j - a.toInt.toNat)
        else (s.buf b.toNat).bits.getLsbD j)

/-- Tier 2. R160. The order of an operand word's halves on the port is the model's (log entry 3). -/
def Obligations.BfbExtuReadsTheField : Prop :=
  ∀ (b : Byte) (a l : Word64) (s : State),
    CodedAs (.bfbExtu b a l) 0x19#8 b 0#8 0#8 (operandWords [a, l]) ∧
    (s.params.nbuf ≤ b.toNat → Faults (.bfbExtu b a l) s .invalidArgument .badIndex) ∧
    (b.toNat < s.params.nbuf → ¬LegalField a l → Faults (.bfbExtu b a l) s .invalidArgument .badField) ∧
    (b.toNat < s.params.nbuf → LegalField a l → ∃ u : Word64,
      Answers (.bfbExtu b a l) s s u [] ∧
      ∀ j, u.getLsbD j = (decide ((j : Int) < l.toInt) && (s.buf b.toNat).bits.getLsbD (a.toInt.toNat + j)))

/-- Tier 2. R161: both meanings, by `SXT_MODE`. The order of an operand word's halves on the port is the model's (log
entry 3). -/
def Obligations.BfbExtsReadsTheFieldByMode : Prop :=
  ∀ (b : Byte) (a l : Word64) (s : State),
    CodedAs (.bfbExts b a l) 0x1A#8 b 0#8 0#8 (operandWords [a, l]) ∧
    (s.params.nbuf ≤ b.toNat → Faults (.bfbExts b a l) s .invalidArgument .badIndex) ∧
    (b.toNat < s.params.nbuf → ¬LegalField a l → Faults (.bfbExts b a l) s .invalidArgument .badField) ∧
    (b.toNat < s.params.nbuf → LegalField a l → ∃ u : Word64,
      Answers (.bfbExts b a l) s s u [] ∧
      ∀ j, j < 64 → u.getLsbD j =
        if (j : Int) < l.toInt then (s.buf b.toNat).bits.getLsbD (a.toInt.toNat + j)
        else match s.params.sxtMode with
          | .compat => false
          | .signext => (s.buf b.toNat).bits.getLsbD ((a.toInt + l.toInt).toNat - 1))

/-- Tier 2. R162: the response is the old bit 0 whatever the distance. The order of an operand word's halves on the
port is the model's (log entry 3). -/
def Obligations.BfbShrShiftsAndShortens : Prop :=
  ∀ (b : Byte) (a : Word64) (s : State),
    CodedAs (.bfbShr b a) 0x1B#8 b 0#8 0#8 (operandWords [a]) ∧
    (s.params.nbuf ≤ b.toNat → Faults (.bfbShr b a) s .invalidArgument .badIndex) ∧
    (b.toNat < s.params.nbuf → (a.toInt < 0 ∨ 64 < a.toInt) → Faults (.bfbShr b a) s .invalidArgument .badShift) ∧
    (b.toNat < s.params.nbuf → 0 ≤ a.toInt → a.toInt ≤ 64 → ∃ r : Buf,
      Answers (.bfbShr b a) s { s with bank := s.bank.set b.toNat r }
        (if (s.buf b.toNat).bits.getLsbD 0 then 1#64 else 0#64) [] ∧
      (r.len : Int) = max ((s.buf b.toNat).len - a.toInt) 0 ∧
      ∀ j, r.bits.getLsbD j = (s.buf b.toNat).bits.getLsbD (a.toInt.toNat + j))

/-- Tier 2. R163, 20_memory.md R73: byte j holds bits 8 j to 8 j + 7; lengths from 57 on fault. The spec marks that
last clause as its inference from R151 and R160. -/
def Obligations.BfbTobytesListsTheBytes : Prop :=
  ∀ (b : Byte) (s : State),
    CodedAs (.bfbTobytes b) 0x1C#8 b 0#8 0#8 [] ∧
    (s.params.nbuf ≤ b.toNat → Faults (.bfbTobytes b) s .invalidArgument .badIndex) ∧
    (b.toNat < s.params.nbuf → 57 ≤ (s.buf b.toNat).len →
      Faults (.bfbTobytes b) s .invalidArgument .badField) ∧
    (b.toNat < s.params.nbuf → (s.buf b.toNat).len ≤ 56 → ∃ l : List Byte,
      Answers (.bfbTobytes b) s s (BitVec.ofNat 64 l.length) (l.map .byte) ∧
      l.length = ((s.buf b.toNat).len + 7) / 8 ∧
      ∀ (k : Nat) (h : k < l.length) (j : Nat), j < 8 →
        l[k].getLsbD j = (s.buf b.toNat).bits.getLsbD (8 * k + j))

/-- Tier 2. R164. -/
def Obligations.BfbEqComparesLengthAndBits : Prop :=
  ∀ (b b2 : Byte) (s : State),
    CodedAs (.bfbEq b b2) 0x1D#8 b b2 0#8 [] ∧
    ((s.params.nbuf ≤ b.toNat ∨ s.params.nbuf ≤ b2.toNat) →
      Faults (.bfbEq b b2) s .invalidArgument .badIndex) ∧
    (b.toNat < s.params.nbuf → b2.toNat < s.params.nbuf →
      Answers (.bfbEq b b2) s s (if s.buf b.toNat = s.buf b2.toNat then 1#64 else 0#64) [])

/-- Tier 2. R165: the hash is the configured function of the pair, so equal buffers have equal hashes. The spec marks
that last clause as its inference from R164. The function is free (log entry 12). -/
def Obligations.BfbHashIsAFunctionOfThePair : Prop :=
  ∀ (b b2 : Byte) (s : State),
    CodedAs (.bfbHash b) 0x1E#8 b 0#8 0#8 [] ∧
    (s.params.nbuf ≤ b.toNat → Faults (.bfbHash b) s .invalidArgument .badIndex) ∧
    (b.toNat < s.params.nbuf →
      Answers (.bfbHash b) s s (0#32 ++ Config.hashFn (s.buf b.toNat).len (s.buf b.toNat).bits) []) ∧
    (b.toNat < s.params.nbuf → b2.toNat < s.params.nbuf → s.buf b.toNat = s.buf b2.toNat →
      ∃ v, Answers (.bfbHash b) s s v [] ∧ Answers (.bfbHash b2) s s v [])

/-- Tier 2. What `BFB.INSERT` puts in a field, masked to its length, is what `BFB.EXTU` reads from it (41_bitfield.md
R159, R160). This is an inference from the two rules. -/
def Obligations.InsertedFieldReadsBack : Prop :=
  ∀ (b : Byte) (a l v : Word64) (s t : State),
    b.toNat < s.params.nbuf → s.bank.length = s.params.nbuf → LegalField a l →
    exec (.bfbInsert b a l v) s = .next t →
    Answers (.bfbExtu b a l) t t (BitVec.ofNat 64 (v.toNat % 2 ^ l.toInt.toNat)) []

/-! ### DG (43_group.md) -/

/-- Tier 2. R201. -/
def Obligations.DgAddJoinsTheActiveList : Prop :=
  ∀ (i : Byte) (s : State),
    CodedAs (.dgAdd i) 0x41#8 i 0#8 0#8 [] ∧
    (s.params.ndec ≤ i.toNat → Faults (.dgAdd i) s .invalidArgument .badIndex) ∧
    (i.toNat < s.params.ndec → (i.toNat ∈ s.dg.active ∨ i.toNat ∈ s.dg.passive) → Answers (.dgAdd i) s s 0#64 []) ∧
    (i.toNat < s.params.ndec → i.toNat ∉ s.dg.active → i.toNat ∉ s.dg.passive →
      Answers (.dgAdd i) s { s with dg := ⟨s.dg.active ++ [i.toNat], s.dg.passive⟩ } 1#64 [])

/-- Tier 2. R202. -/
def Obligations.DgRemoveLeavesTheListThatHoldsIt : Prop :=
  ∀ (i : Byte) (s : State),
    CodedAs (.dgRemove i) 0x42#8 i 0#8 0#8 [] ∧
    (s.params.ndec ≤ i.toNat → Faults (.dgRemove i) s .invalidArgument .badIndex) ∧
    (i.toNat < s.params.ndec → i.toNat ∈ s.dg.active →
      Answers (.dgRemove i) s { s with dg := ⟨s.dg.active.filter (· ≠ i.toNat), s.dg.passive⟩ } 1#64 []) ∧
    (i.toNat < s.params.ndec → i.toNat ∉ s.dg.active → i.toNat ∈ s.dg.passive →
      Answers (.dgRemove i) s { s with dg := ⟨s.dg.active, s.dg.passive.filter (· ≠ i.toNat)⟩ } 1#64 []) ∧
    (i.toNat < s.params.ndec → i.toNat ∉ s.dg.active → i.toNat ∉ s.dg.passive →
      Answers (.dgRemove i) s s 0#64 [])

/-- Tier 2. R203: out of the other list, and at the end of the chosen one unless it is in it. -/
def Obligations.DgSetactiveMovesTheDecoder : Prop :=
  ∀ (i : Byte) (f : Bool) (s : State),
    CodedAs (.dgSetactive i f) 0x43#8 i 0#8 (immFlag f) [] ∧
    (s.params.ndec ≤ i.toNat → Faults (.dgSetactive i f) s .invalidArgument .badIndex) ∧
    (i.toNat < s.params.ndec → f = true → Answers (.dgSetactive i f) s { s with
      dg := ⟨if i.toNat ∈ s.dg.active then s.dg.active else s.dg.active ++ [i.toNat],
        s.dg.passive.filter (· ≠ i.toNat)⟩ } 0#64 []) ∧
    (i.toNat < s.params.ndec → f = false → Answers (.dgSetactive i f) s { s with
      dg := ⟨s.dg.active.filter (· ≠ i.toNat),
        if i.toNat ∈ s.dg.passive then s.dg.passive else s.dg.passive ++ [i.toNat]⟩ } 0#64 [])

/-- Tier 2. R204: the target register of every member and no other slot, and the calls, active list first. -/
def Obligations.DgSettargetReachesEveryMember : Prop :=
  ∀ (k : Byte) (s : State),
    CodedAs (.dgSettarget k) 0x44#8 0#8 k 0#8 [] ∧
    (s.params.nsink ≤ k.toNat → Faults (.dgSettarget k) s .invalidArgument .badIndex) ∧
    (k.toNat < s.params.nsink → ∃ tgt : List Nat,
      Answers (.dgSettarget k) s { s with
        decTgt := tgt
        out := s.out ++ (s.dg.active ++ s.dg.passive).map (fun i => .dec i (.setTarget k.toNat)) } 0#64 [] ∧
      tgt.length = s.decTgt.length ∧
      ∀ j, j < s.decTgt.length →
        tgt[j]? = if j ∈ s.dg.active ++ s.dg.passive then some k.toNat else s.decTgt[j]?)

/-- Tier 2. R205: every active decoder is called in list order, its events delivered to its target before the next is
called, and the response is the code of the last one called. A decoder's answer is the next one presented on its port;
where none is presented it is free (log entry 5), and the statement holds for all of them. Of decoders with the duties of
42_contracts.md R185, every code is the state of its decoder after the pulse, on noise the state before it or idle (a, b),
the response is 0 iff the last one called is idle (b), and every partial parse was raised with some bits decoded (c); what
is noise to a decoder and how many bits it has decoded is by its own account (log entry 5). The order of an operand word's halves on the port is the model's (log entry 3). -/
def Obligations.DgParseCallsEveryActiveDecoder : Prop :=
  ∀ (d : F64) (f : Bool) (s : State),
    CodedAs (.dgParse d f) 0x40#8 0#8 0#8 (immFlag f) (operandWords [d]) ∧
    ∃ answers : List DecAnswer,
      answers.length = s.dg.active.length ∧
      (∀ j i, s.dg.active[j]? = some i →
        let turn := (s.dg.active.take j).count i
        answers[j]? = some (match (s.decAnswers.getD i [])[turn]? with
          | some a => a
          | none => Config.decoder i (s.decCalls i ++ List.replicate (turn + 1) (.parse d f)))) ∧
      (∃ left : List (List DecAnswer),
        (∀ i, left.getD i [] = (s.decAnswers.getD i []).drop (s.dg.active.count i)) ∧
        Answers (.dgParse d f) s { s with
          decAnswers := left
          out := s.out ++ (s.dg.active.zip answers).flatMap fun p =>
            .dec p.1 (.parse d f) :: p.2.evs.map (.sink (s.decTgt.getD p.1 0)) }
          (0#32 ++ (answers.getLast?.map DecAnswer.code).getD 0#32) []) ∧
      ∀ acc : Nat → DecoderAccount, (∀ i ∈ s.dg.active, DecoderDuties (s.decoder i) (acc i)) →
        ((answers.getLast?.map DecAnswer.code).getD 0#32 = 0#32 ↔ ∀ i, s.dg.active.getLast? = some i →
          (acc i).idle (List.replicate (s.dg.active.count i) (.parse d f)) = true) ∧
        ∀ j i a, s.dg.active[j]? = some i → answers[j]? = some a →
          let before := List.replicate ((s.dg.active.take j).count i) (DecCall.parse d f)
          let calls := List.replicate ((s.dg.active.take j).count i + 1) (DecCall.parse d f)
          a.code = (acc i).state calls ∧
          ((acc i).noise calls = true → a.code = (acc i).state before ∨ a.code = 0#32) ∧
          ∀ k name n, a.evs[k]? = some (.partiallyParsed name n) → 0 < (acc i).bits calls k

/-! ### FD (44_flank.md) and the rates -/

/-- Tier 2. R221, R230: the flank test comes before the push test; a flank reports the clamp after a push, and else
its count with the compensation added to a mark and taken from a space. What `emitPulse` does is
`EmitPulseRunsTheEnabledConsumers`. -/
def Obligations.FdSampleDetectsFlanksAndPushes : Prop :=
  ∀ (smp : Byte) (s : State),
    let cnt := s.fd.cnt + 1
    let old := s.fd.hist.getD (s.csr.fdFlankLength.toNat - 1) 0#8
    let diff : Int := (smp.toNat : Int) - (old.toNat : Int)
    let dir : Dir := if 0 < diff then .rise else if diff < 0 then .fall else .flat
    let hist := (smp :: s.fd.hist).take s.fd.hist.length
    let raw := f64Div (f64Mul (f64OfNat cnt) f64Million) (f64OfNat s.fd.rate)
    let flank := s.csr.fdFlankSwing.toNat < diff.natAbs ∧ dir ≠ s.fd.lastDir ∧ s.csr.fdFlankHoldoff.toNat < cnt
    let push := s.fd.rate * s.csr.fdPushPeriodMs.toNat / 1000 ≤ cnt
    CodedAs (.fdSample smp) 0x20#8 0#8 0#8 smp [] ∧
    (s.fd.rate = 0 → Faults (.fdSample smp) s .invalidArgument .rateNotSet) ∧
    (s.fd.rate ≠ 0 → flank → dir = .rise → Answers (.fdSample smp) s
      (emitPulse (if s.fd.pushed then s.csr.fdPushClampUs else f64Sub raw s.csr.fdPwcUs) false
        { s with fd := ⟨hist, 0, .rise, false, s.fd.rate⟩ }) 0#64 []) ∧
    (s.fd.rate ≠ 0 → flank → dir = .fall → Answers (.fdSample smp) s
      (emitPulse (if s.fd.pushed then s.csr.fdPushClampUs else f64Add raw s.csr.fdPwcUs) true
        { s with fd := ⟨hist, 0, .fall, false, s.fd.rate⟩ }) 0#64 []) ∧
    (s.fd.rate ≠ 0 → ¬flank → push → Answers (.fdSample smp) s
      (emitPulse 0#64 true (emitPulse raw false
        { s with fd := ⟨hist, 0, s.fd.lastDir, true, s.fd.rate⟩ })) 0#64 []) ∧
    (s.fd.rate ≠ 0 → ¬flank → ¬push → Answers (.fdSample smp) s
      { s with fd := ⟨hist, cnt, s.fd.lastDir, s.fd.pushed, s.fd.rate⟩ } 0#64 [])

/-- Tier 2. R317: the trace port, then the steps of `DG.PARSE`, `RCD.PARSE` and `PC.ADD`, each if it is enabled and
without its response. -/
def Obligations.EmitPulseRunsTheEnabledConsumers : Prop :=
  ∀ (d : F64) (m : Bool) (s : State), ∃ t1 t2 t3 : State,
    (if s.csr.route.getLsbD 0 then
        ∃ v, Answers (.dgParse d m) { s with out := s.out ++ [.pulse d m] } t1 v []
      else t1 = { s with out := s.out ++ [.pulse d m] }) ∧
    (if s.csr.route.getLsbD 1 then ∃ v, Answers (.rcdParse d m) t1 t2 v [] else t2 = t1) ∧
    (if s.csr.route.getLsbD 2 then ∃ v, Answers (.pcAdd d m) t2 t3 v [] else t3 = t2) ∧
    emitPulse d m s = t3

/-- Tier 2. R222, R284, R315: a rate in 1 to 2^31 - 1 is stored in the unit, or in both, and nothing else changes. The
order of an operand word's halves on the port is the model's (log entry 3). -/
def Obligations.SampleRateCommandsStoreTheRate : Prop :=
  ∀ (a : Word64) (s : State),
    CodedAs (.fdSetrate a) 0x21#8 0#8 0#8 0#8 (operandWords [a]) ∧
    CodedAs (.rcdSetrate a) 0x52#8 0#8 0#8 0#8 (operandWords [a]) ∧
    CodedAs (.topSetrate a) 0x05#8 0#8 0#8 0#8 (operandWords [a]) ∧
    ((a.toInt < 1 ∨ 2147483647 < a.toInt) →
      Faults (.fdSetrate a) s .invalidArgument .badConfig ∧ Faults (.rcdSetrate a) s .invalidArgument .badConfig ∧
      Faults (.topSetrate a) s .invalidArgument .badConfig) ∧
    (1 ≤ a.toInt → a.toInt ≤ 2147483647 →
      Answers (.fdSetrate a) s { s with fd := { s.fd with rate := a.toInt.toNat } } 0#64 [] ∧
      Answers (.rcdSetrate a) s { s with rcd := { s.rcd with rate := a.toInt.toNat } } 0#64 [] ∧
      Answers (.topSetrate a) s { s with
        fd := { s.fd with rate := a.toInt.toNat }, rcd := { s.rcd with rate := a.toInt.toNat } } 0#64 [])

/-! ### PC (45_classifier.md) -/

/-- Tier 2. R251: the match predicate, its quotient, difference and comparison those of binary64, `none` being a NaN;
a NaN duration matches nothing (R259 c). The spec marks R259 as its own inference. That a pulse of 0.0 matches at a
tolerance above 1.0, as R251 and the vectors have it and R259 (a) does not, is the model's (log entry 16); the arithmetic
is log entry 11. -/
def Obligations.MatchIsADeviationBelowTheTolerance : Prop :=
  ∀ (g : Group) (tol d : F64) (m : Bool),
    (g.matches tol d m = true ↔ g.isMark = m ∧ ∃ a q x : F64,
      (if g.count = 0 then some g.center else f64Div? g.sum (f64OfNat g.count)) = some a ∧
      f64Div? d a = some q ∧ f64Sub? f64One q = some x ∧ f64Lt (f64Abs x) tol = true) ∧
    (f64IsNan d = true → g.matches tol d m = false)

/-- Tier 2. R252, R253, R254: the first matching group in creation order accepts the pulse; else a new group is
opened, or the pulse is dropped and `PC.ovf` set when the table is full. The order of an operand word's halves on the
port is the model's (log entry 3). -/
def Obligations.PcAddClassifiesThePulse : Prop :=
  ∀ (d : F64) (f : Bool) (s : State),
    CodedAs (.pcAdd d f) 0x30#8 0#8 0#8 (immFlag f) (operandWords [d]) ∧
    (∀ (k : Nat) (g : Group), s.pc.groups[k]? = some g → g.matches s.csr.pcTolerance d f = true →
      (∀ (j : Nat) (h : Group), j < k → s.pc.groups[j]? = some h → h.matches s.csr.pcTolerance d f = false) →
      Answers (.pcAdd d f) s { s with pc := { s.pc with groups := (s.pc.groups.set k
        ⟨g.isMark, g.primer, g.center, f64Add g.sum d, g.count + 1, if g.count = 0 then d else fmin g.min d,
          if g.count = 0 then d else fmax g.max d⟩) } } (BitVec.ofNat 64 k) []) ∧
    ((∀ g ∈ s.pc.groups, g.matches s.csr.pcTolerance d f = false) → s.pc.groups.length = s.params.pcNgroups →
      Answers (.pcAdd d f) s { s with pc := ⟨s.pc.groups, true⟩ } (BitVec.ofInt 64 (-1)) []) ∧
    ((∀ g ∈ s.pc.groups, g.matches s.csr.pcTolerance d f = false) → s.pc.groups.length ≠ s.params.pcNgroups →
      Answers (.pcAdd d f) s { s with pc := ⟨s.pc.groups ++ [⟨f, false, 0#64, d, 1, d, d⟩], s.pc.ovf⟩ }
        (BitVec.ofNat 64 s.pc.groups.length) [])

/-- Tier 2. R255: a primer pulse that matches a group changes nothing; else it seeds a primer group, or is dropped.
The order of an operand word's halves on the port is the model's (log entry 3). -/
def Obligations.PcPrimeConfirmsOrSeeds : Prop :=
  ∀ (d : F64) (f : Bool) (s : State),
    CodedAs (.pcPrime d f) 0x31#8 0#8 0#8 (immFlag f) (operandWords [d]) ∧
    (∀ (k : Nat) (g : Group), s.pc.groups[k]? = some g → g.matches s.csr.pcTolerance d f = true →
      (∀ (j : Nat) (h : Group), j < k → s.pc.groups[j]? = some h → h.matches s.csr.pcTolerance d f = false) →
      Answers (.pcPrime d f) s s (BitVec.ofNat 64 k) []) ∧
    ((∀ g ∈ s.pc.groups, g.matches s.csr.pcTolerance d f = false) → s.pc.groups.length = s.params.pcNgroups →
      Answers (.pcPrime d f) s { s with pc := ⟨s.pc.groups, true⟩ } (BitVec.ofInt 64 (-1)) []) ∧
    ((∀ g ∈ s.pc.groups, g.matches s.csr.pcTolerance d f = false) → s.pc.groups.length ≠ s.params.pcNgroups →
      Answers (.pcPrime d f) s { s with pc := ⟨s.pc.groups ++ [⟨f, true, d, 0#64, 0, d, d⟩], s.pc.ovf⟩ }
        (BitVec.ofNat 64 s.pc.groups.length) [])

/-- Tier 2. R257: the groups that accepted a pulse, by descending count, in some order among equal counts; the table
is unchanged. -/
def Obligations.PcGetSortsByDescendingCount : Prop :=
  ∀ s : State,
    CodedAs .pcGet 0x32#8 0#8 0#8 0#8 [] ∧
    ∃ gs : List Group,
      gs.Perm (s.pc.groups.filter fun g => decide (0 < g.count)) ∧ gs.Pairwise (fun a b => b.count ≤ a.count) ∧
      Answers .pcGet s s (BitVec.ofNat 64 gs.length)
        (gs.map fun g => .group
          ⟨g.isMark, g.count, f64Div g.sum (f64OfNat g.count), g.min, g.max, g.sum⟩)

/-- Tier 1. R258, R310, R286: `PC.RESET` forgets the groups and the overflow bit, `NOP` does nothing, and
`RCD.GETINFO` gives the same record in every state. -/
def Obligations.ResetOfPcAndTheConstantCommands : Prop :=
  ∀ s : State,
    CodedAs .pcReset 0x33#8 0#8 0#8 0#8 [] ∧ Answers .pcReset s { s with pc := ⟨[], false⟩ } 0#64 [] ∧
    CodedAs .nop 0#8 0#8 0#8 0#8 [] ∧ Answers .nop s s 0#64 [] ∧
    CodedAs .rcdGetinfo 0x55#8 0#8 0#8 0#8 [] ∧
    Answers .rcdGetinfo s s 1#64 [.info ⟨['R', 'a', 'w'], ['R', 'a', 'w'], [], 0, 0⟩]

/-! ### RCD (46_rawcapture.md) -/

/-- Tier 2. R281, R282: the message that ends a capture, and the state after it. -/
def Obligations.EndOfMessageSendsTheTrimmedCapture : Prop :=
  ∀ s : State, ∃ keep : Nat,
    (s.rcd.free = true → keep = s.rcd.samples.length) ∧
    (s.rcd.free = false → s.rcd.pulses = [] → keep = 0) ∧
    (∀ p, s.rcd.free = false → s.rcd.pulses[s.rcd.pulses.length - 1]? = some p → keep = p.offset) ∧
    endOfMessage s = { s with
      rcd := { s.rcd with mode := .idle, free := false }
      out := s.out ++ [.sink s.rcd.target (.parsedMessage (.raw
        { base := ⟨[], ['R', 'a', 'w'], [], 0#64, 0#64, 0#64, []⟩
          offsets := s.rcd.pulses.map RcdPulse.offset
          samples := s.rcd.samples.take keep
          rate := s.rcd.rate
          durations := s.rcd.pulses.map RcdPulse.dur }))] }

/-- Tier 2. R273 to R277: every transition of the capture machine on a pulse, and the state code answered. The order
of an operand word's halves on the port is the model's (log entry 3). -/
def Obligations.RcdParseRunsTheCaptureMachine : Prop :=
  ∀ (d : F64) (f : Bool) (s : State),
    let start := f = false ∧ f64Lt 0#64 d = true ∧ f64Lt d 0x41086A0000000000#64 = true
    let goesOn := f64Lt d s.csr.rcdEomGapUs = true ∨ s.rcd.free = true
    CodedAs (.rcdParse d f) 0x50#8 0#8 0#8 (immFlag f) (operandWords [d]) ∧
    (s.rcd.mode = .idle → start → Answers (.rcdParse d f) s { s with rcd := { s.rcd with
      mode := .capturing, free := false, samples := [], pulses := []
      budget := min (s.rcd.rate * s.csr.rcdMaxMsgMs.toNat / 1000) s.params.rcdSampleCap } } 1#64 []) ∧
    (s.rcd.mode = .idle → ¬start → Answers (.rcdParse d f) s s 0#64 []) ∧
    (s.rcd.mode = .capturing → goesOn → s.rcd.pulses.length ≠ s.params.rcdPulseCap →
      Answers (.rcdParse d f) s { s with rcd := { s.rcd with
        pulses := s.rcd.pulses ++ [⟨s.rcd.samples.length, d⟩] } } 1#64 []) ∧
    (s.rcd.mode = .capturing → goesOn → s.rcd.pulses.length = s.params.rcdPulseCap →
      Answers (.rcdParse d f) s (endOfMessage s) 0#64 []) ∧
    (s.rcd.mode = .capturing → ¬goesOn → 1 < s.rcd.pulses.length →
      Answers (.rcdParse d f) s (endOfMessage s) 0#64 []) ∧
    (s.rcd.mode = .capturing → ¬goesOn → s.rcd.pulses.length ≤ 1 → Answers (.rcdParse d f) s s 1#64 [])

/-- Tier 2. R278, R279, R280: the level rises, is reported at the end of an interval and then decays; after that a
capturing RCD records the sample, and the one that reaches the budget ends the message. -/
def Obligations.RcdAddsampleTracksLevelAndRecords : Prop :=
  ∀ (smp : Byte) (s : State),
    let mag : Nat := ((smp.toNat : Int) - 128).natAbs
    let level := max s.rcd.level mag
    let hz := s.csr.rcdLevelReportHz.toNat
    let decay := (128000 + (s.csr.rcdLevelZeroMs.toNat * hz - 1)) / (s.csr.rcdLevelZeroMs.toNat * hz)
    CodedAs (.rcdAddsample smp) 0x51#8 0#8 0#8 smp [] ∧
    (s.rcd.rate = 0 → Faults (.rcdAddsample smp) s .invalidArgument .rateNotSet) ∧
    (s.rcd.rate ≠ 0 → ∃ t : State,
      (s.rcd.levelCtr + 1 < s.rcd.rate / hz →
        t = { s with rcd := { s.rcd with level := level, levelCtr := s.rcd.levelCtr + 1 } }) ∧
      (s.rcd.rate / hz ≤ s.rcd.levelCtr + 1 →
        t = { s with
          rcd := { s.rcd with level := level - decay, levelCtr := 0 }
          out := s.out ++ [.sink s.rcd.target (.reportLevel level)] }) ∧
      (s.rcd.mode = .idle → Answers (.rcdAddsample smp) s t 0#64 []) ∧
      (s.rcd.mode = .capturing → s.rcd.samples.length + 1 < s.rcd.budget →
        Answers (.rcdAddsample smp) s { t with rcd := { t.rcd with samples := s.rcd.samples ++ [smp] } } 0#64 []) ∧
      (s.rcd.mode = .capturing → s.rcd.budget ≤ s.rcd.samples.length + 1 →
        Answers (.rcdAddsample smp) s
          (endOfMessage { t with rcd := { t.rcd with samples := s.rcd.samples ++ [smp] } }) 0#64 []))

/-- Tier 2. R283, R285: the free-running start, which abandons a running capture without a message, and the target.
The order of an operand word's halves on the port is the model's (log entry 3). -/
def Obligations.RcdStartfreeAndSettarget : Prop :=
  ∀ (a : Word64) (k : Byte) (s : State),
    CodedAs (.rcdStartfree a) 0x54#8 0#8 0#8 0#8 (operandWords [a]) ∧
    CodedAs (.rcdSettarget k) 0x53#8 0#8 k 0#8 [] ∧
    ((a.toInt < 1 ∨ (s.params.rcdSampleCap : Int) < a.toInt) →
      Faults (.rcdStartfree a) s .invalidArgument .badCount) ∧
    (1 ≤ a.toInt → a.toInt ≤ (s.params.rcdSampleCap : Int) →
      Answers (.rcdStartfree a) s { s with rcd := { s.rcd with
        mode := .capturing, free := true, samples := [], pulses := [], budget := a.toInt.toNat } } 0#64 []) ∧
    (s.params.nsink ≤ k.toNat → Faults (.rcdSettarget k) s .invalidArgument .badIndex) ∧
    (k.toNat < s.params.nsink →
      Answers (.rcdSettarget k) s { s with rcd := { s.rcd with target := k.toNat } } 0#64 [])

/-! ### MR (47_repeater.md) -/

/-- Tier 2. R300, R301, R302: the operand checks before any call, the FIRST call (phase bit 0) before the REPEATED call
(phase bit 1; 42_contracts.md R186), BadMessage at once, the output bound after both calls, and the train. The answers are
the next two presented on this encoder's own port, and only they are taken; where none is presented an answer is a free
function of the calls made on this port (log entry 5), and the statement holds for all of them. That no `n` from 2^31 on
is BadCount is the model's (log entry 17), and so is the order of an operand word's halves on the port (log entry 3). -/
def Obligations.MrRepeatAssemblesTheTrain : Prop :=
  ∀ (e : Byte) (n : Word64) (msg : Message) (s : State),
    let call1 : Output := .enc e.toNat ⟨msg, 0#1⟩
    let call2 : Output := .enc e.toNat ⟨msg, 1#1⟩
    CodedAs (.mrRepeat e n msg) 0x60#8 e 0#8 0#8 (operandWords [n] ++ [.message (recordOfMessage msg)]) ∧
    (s.params.nenc ≤ e.toNat → Faults (.mrRepeat e n msg) s .invalidArgument .badIndex) ∧
    (e.toNat < s.params.nenc → n.toInt < 0 → Faults (.mrRepeat e n msg) s .invalidArgument .badCount) ∧
    (e.toNat < s.params.nenc → 0 ≤ n.toInt →
      let presented := s.encAnswers.getD e.toNat []
      let a1 : EncAnswer := match presented[0]? with
        | some a => a
        | none => Config.encoder e.toNat (s.encCalls e.toNat ++ [⟨msg, 0#1⟩])
      let a2 : EncAnswer := match presented[1]? with
        | some a => a
        | none => Config.encoder e.toNat (s.encCalls e.toNat ++ [⟨msg, 0#1⟩, ⟨msg, 1#1⟩])
      let left := fun k : Nat => s.encAnswers.modify e.toNat (List.drop k)
      (a1 = .badMessage → exec (.mrRepeat e n msg) s = .next { s with
        encAnswers := left 1, lastFault := .badMessage, lastCause := .none
        out := s.out ++ [call1, .resp ⟨.badMessage, .none, 0#64, []⟩] }) ∧
      (∀ pre, a1 = .pulses pre → a2 = .badMessage → exec (.mrRepeat e n msg) s = .next { s with
        encAnswers := left 2, lastFault := .badMessage, lastCause := .none
        out := s.out ++ [call1, call2, .resp ⟨.badMessage, .none, 0#64, []⟩] }) ∧
      (∀ pre rep, a1 = .pulses pre → a2 = .pulses rep →
        s.params.mrOutCap < pre.length + rep.length * n.toInt.toNat → exec (.mrRepeat e n msg) s = .next { s with
          encAnswers := left 2, lastFault := .invalidArgument, lastCause := .outputTooLong
          out := s.out ++ [call1, call2, .resp ⟨.invalidArgument, .outputTooLong, 0#64, []⟩] }) ∧
      (∀ pre rep, a1 = .pulses pre → a2 = .pulses rep →
        pre.length + rep.length * n.toInt.toNat ≤ s.params.mrOutCap → ∃ train : List F64,
          Answers (.mrRepeat e n msg) s { s with
            encAnswers := left 2, out := s.out ++ [call1, call2] }
            (BitVec.ofNat 64 train.length) (train.map .duration) ∧
          train.length = pre.length + rep.length * n.toInt.toNat ∧
          (∀ j, j < pre.length → train[j]? = pre[j]?) ∧
          ∀ c j, c < n.toInt.toNat → j < rep.length → train[pre.length + c * rep.length + j]? = rep[j]?))

/-! ### SYS (48_system.md) and the CSR file (10_state.md) -/

/-- Tier 2. R41: the fields of the STATUS word, the sticky status and cause by the code numbers of R330 and R331. -/
def Obligations.StatusWordFields : Prop :=
  ∀ s : State,
    (statusWord s).getLsbD 0 = s.fd.pushed ∧
    ((statusWord s).getLsbD 1 = true ↔ s.rcd.mode = .capturing) ∧
    ((statusWord s).getLsbD 2 = true ↔ s.rcd.free = true ∧ s.rcd.mode = .capturing) ∧
    (statusWord s).getLsbD 3 = s.pc.ovf ∧
    (statusWord s).extractLsb' 4 4 = 0#4 ∧
    (s.lastFault = .ok → (statusWord s).extractLsb' 8 8 = 0#8) ∧
    (s.lastFault = .invalidArgument → (statusWord s).extractLsb' 8 8 = 1#8) ∧
    (s.lastFault = .rangeError → (statusWord s).extractLsb' 8 8 = 2#8) ∧
    (s.lastFault = .badMessage → (statusWord s).extractLsb' 8 8 = 3#8) ∧
    (s.lastFault = .illegalCommand → (statusWord s).extractLsb' 8 8 = 4#8) ∧
    (s.lastCause = .none → (statusWord s).extractLsb' 16 8 = 0#8) ∧
    (s.lastCause = .badIndex → (statusWord s).extractLsb' 16 8 = 1#8) ∧
    (s.lastCause = .badLength → (statusWord s).extractLsb' 16 8 = 2#8) ∧
    (s.lastCause = .badBitPos → (statusWord s).extractLsb' 16 8 = 3#8) ∧
    (s.lastCause = .badField → (statusWord s).extractLsb' 16 8 = 4#8) ∧
    (s.lastCause = .badShift → (statusWord s).extractLsb' 16 8 = 5#8) ∧
    (s.lastCause = .badConfig → (statusWord s).extractLsb' 16 8 = 6#8) ∧
    (s.lastCause = .badCsr → (statusWord s).extractLsb' 16 8 = 7#8) ∧
    (s.lastCause = .rateNotSet → (statusWord s).extractLsb' 16 8 = 8#8) ∧
    (s.lastCause = .badCount → (statusWord s).extractLsb' 16 8 = 9#8) ∧
    (s.lastCause = .outputTooLong → (statusWord s).extractLsb' 16 8 = 10#8) ∧
    (s.lastCause = .full → (statusWord s).extractLsb' 16 8 = 11#8) ∧
    (statusWord s).extractLsb' 24 40 = 0#40

/-- Tier 2. R311, R40, R54, R55: what each CSR number reads, and that every other number is refused. -/
def Obligations.CsrRdReadsTheMap : Prop :=
  ∀ (n : Byte) (s : State),
    let map : List (Byte × Word64) :=
      [(0x00#8, statusWord s), (0x01#8, s.csr.route), (0x10#8, s.csr.fdFlankLength), (0x11#8, s.csr.fdFlankSwing),
       (0x12#8, s.csr.fdFlankHoldoff), (0x13#8, s.csr.fdPwcUs), (0x14#8, s.csr.fdPushPeriodMs),
       (0x15#8, s.csr.fdPushClampUs), (0x16#8, BitVec.ofNat 64 s.fd.rate),
       (0x17#8, BitVec.ofNat 64 (s.fd.rate * s.csr.fdPushPeriodMs.toNat / 1000)), (0x20#8, s.csr.pcTolerance),
       (0x21#8, BitVec.ofNat 64 s.pc.groups.length), (0x30#8, s.csr.rcdEomGapUs), (0x31#8, s.csr.rcdMaxMsgMs),
       (0x32#8, s.csr.rcdLevelReportHz), (0x33#8, s.csr.rcdLevelZeroMs), (0x34#8, BitVec.ofNat 64 s.rcd.rate),
       (0x35#8, BitVec.ofNat 64 s.rcd.level), (0x36#8, BitVec.ofNat 64 s.rcd.samples.length),
       (0x37#8, BitVec.ofNat 64 s.rcd.pulses.length)]
    CodedAs (.csrRd n) 0x01#8 n 0#8 0#8 [] ∧
    (∀ v, (n, v) ∈ map → Answers (.csrRd n) s s v []) ∧
    (n ∉ map.map Prod.fst → Faults (.csrRd n) s .invalidArgument .badCsr)

/-- Tier 2. R312, R42 to R53, R55: the legal values of each writable CSR and that nothing but the register changes;
`BadConfig` for another value, `BadCsr` for a read-only or reserved number. The order of an operand word's halves on
the port is the model's (log entry 3). -/
def Obligations.CsrWrStoresLegalValues : Prop :=
  ∀ (n : Byte) (a : Word64) (s : State),
    let int (lo hi : Int) : Prop := lo ≤ a.toInt ∧ a.toInt ≤ hi
    let nonNeg : Prop := f64IsFinite a = true ∧ f64Lt a 0#64 = false
    let map : List (Byte × Prop × Csr) :=
      [(0x01#8, ∀ j, 5 ≤ j → a.getLsbD j = false, { s.csr with route := a }),
       (0x10#8, int 1 s.params.fdHistMax, { s.csr with fdFlankLength := a }),
       (0x11#8, int 0 255, { s.csr with fdFlankSwing := a }),
       (0x12#8, int 0 2147483647, { s.csr with fdFlankHoldoff := a }),
       (0x13#8, f64IsFinite a = true, { s.csr with fdPwcUs := a }),
       (0x14#8, int 1 2147483647, { s.csr with fdPushPeriodMs := a }),
       (0x15#8, nonNeg, { s.csr with fdPushClampUs := a }),
       (0x20#8, nonNeg, { s.csr with pcTolerance := a }),
       (0x30#8, nonNeg, { s.csr with rcdEomGapUs := a }),
       (0x31#8, int 1 2147483647, { s.csr with rcdMaxMsgMs := a }),
       (0x32#8, int 1 2147483647, { s.csr with rcdLevelReportHz := a }),
       (0x33#8, int 1 2147483647, { s.csr with rcdLevelZeroMs := a })]
    CodedAs (.csrWr n a) 0x02#8 n 0#8 0#8 (operandWords [a]) ∧
    (∀ legal c, (n, legal, c) ∈ map → legal → Answers (.csrWr n a) s { s with csr := c } 0#64 []) ∧
    (∀ legal c, (n, legal, c) ∈ map → ¬legal → Faults (.csrWr n a) s .invalidArgument .badConfig) ∧
    (n ∉ map.map Prod.fst → Faults (.csrWr n a) s .invalidArgument .badCsr)

/-- Tier 1. R313: every piece of PPC state takes its reset value, the fault record with them; the ports keep theirs.
That the ports keep theirs is the model's (log entry 10). -/
def Obligations.SysResetLoadsTheResetState : Prop :=
  ∀ s : State,
    CodedAs .sysReset 0x03#8 0#8 0#8 0#8 [] ∧
    Answers .sysReset s { State.resetWith s.params with
      cmd := s.cmd, resetIn := s.resetIn, decAnswers := s.decAnswers, encAnswers := s.encAnswers, out := s.out } 0#64 []

/-- Tier 2. R316: `RateNotSet` if a unit that is to consume the sample has no rate; else the steps of `FD.SAMPLE` and
then of `RCD.ADDSAMPLE`, each if it is enabled and without its response. -/
def Obligations.TopSampleRunsFdThenRcd : Prop :=
  ∀ (smp : Byte) (s : State),
    let missing := (s.csr.route.getLsbD 3 = true ∧ s.fd.rate = 0) ∨ (s.csr.route.getLsbD 4 = true ∧ s.rcd.rate = 0)
    CodedAs (.topSample smp) 0x04#8 0#8 0#8 smp [] ∧
    (missing → Faults (.topSample smp) s .invalidArgument .rateNotSet) ∧
    (¬missing → ∃ t1 t2 : State,
      (if s.csr.route.getLsbD 3 then Answers (.fdSample smp) s t1 0#64 [] else t1 = s) ∧
      (if s.csr.route.getLsbD 4 then Answers (.rcdAddsample smp) t1 t2 0#64 [] else t2 = t1) ∧
      Answers (.topSample smp) s t2 0#64 [])

/-! ### Number formats and records -/

/-- Tier 2. R12: the rounding of a quotient of either sign, in units of 2 ^ -1074, is a nearest binary64, of two nearest
the even one, an infinity beyond the range, and keeps the sign. The content of the standard is general knowledge (log
entry 11). -/
def Obligations.RoundingGivesTheNearestNumber : Prop :=
  ∀ (neg : Bool) (num den : Nat), 0 < den →
    RoundedTo (f64Round neg num den) (if neg then -(num : Int) else num) den ∧ f64Sign (f64Round neg num den) = neg

/-- Tier 2. R12: on finite operands the sum, the difference, the product and the quotient are the exact result rounded
once, with the sign of a zero and the quotients by zero as the standard has them; and the arithmetic of the rules is
these operations, a NaN where they give none. The content of the standard is general knowledge (log entry 11), the bits
of a NaN are free (log entry 8). -/
def Obligations.FiniteArithmeticRoundsTheExactResult : Prop :=
  ∀ x y : F64,
    let zero (neg : Bool) : F64 := if neg then 0x8000000000000000#64 else 0#64
    let inf (neg : Bool) : F64 := if neg then 0xFFF0000000000000#64 else 0x7FF0000000000000#64
    let differ : Bool := f64Sign x != f64Sign y
    let is (r? : Option F64) (r : F64) : Prop := (∀ v, r? = some v → r = v) ∧ (r? = none → f64IsNan r = true)
    (f64IsFinite x = true → f64IsFinite y = true →
      (∃ r, f64Add? x y = some r ∧ RoundedTo r (f64Int x + f64Int y) 1 ∧
        (f64Int x + f64Int y = 0 → r = zero (f64Sign x && f64Sign y))) ∧
      (∃ r, f64Sub? x y = some r ∧ RoundedTo r (f64Int x - f64Int y) 1 ∧
        (f64Int x - f64Int y = 0 → r = zero (f64Sign x && !f64Sign y))) ∧
      (∃ r, f64Mul? x y = some r ∧ RoundedTo r (f64Int x * f64Int y) (2 ^ 1074) ∧ f64Sign r = differ) ∧
      (f64Int y ≠ 0 → ∃ r, f64Div? x y = some r ∧
        RoundedTo r (f64Int x * 2 ^ 1074 * (f64Int y).sign) (f64Int y).natAbs ∧ f64Sign r = differ) ∧
      (f64Int y = 0 → f64Int x ≠ 0 → f64Div? x y = some (inf differ)) ∧
      (f64Int y = 0 → f64Int x = 0 → f64Div? x y = none)) ∧
    is (f64Add? x y) (f64Add x y) ∧ is (f64Sub? x y) (f64Sub x y) ∧
    is (f64Mul? x y) (f64Mul x y) ∧ is (f64Div? x y) (f64Div x y)

/-- Tier 2. R12, 00_scope.md section 7: NaNs and infinities as operands; the comparison is that of the exact values, an
infinity beyond every other, and false with a NaN; fmin and fmax give the other operand of a NaN, and else an operand
that no operand is below, or above. The content of the standard is general knowledge (log entry 11); which operand it is
of two NaNs or of unlike zeros is free (log entry 9). -/
def Obligations.SpecialOperandsAndComparisons : Prop :=
  ∀ x y : F64,
    let zero (neg : Bool) : F64 := if neg then 0x8000000000000000#64 else 0#64
    let inf (neg : Bool) : F64 := if neg then 0xFFF0000000000000#64 else 0x7FF0000000000000#64
    let sx := f64Sign x
    let sy := f64Sign y
    let nan (z : F64) : Prop := f64IsNan z = true
    let finite (z : F64) : Prop := f64IsFinite z = true
    (nan x ∨ nan y →
      f64Add? x y = none ∧ f64Sub? x y = none ∧ f64Mul? x y = none ∧ f64Div? x y = none ∧ f64Lt x y = false) ∧
    (x = inf sx → finite y →
      f64Add? x y = some x ∧ f64Sub? x y = some x ∧ f64Div? x y = some (inf (sx != sy)) ∧
      f64Mul? x y = if f64Int y = 0 then none else some (inf (sx != sy))) ∧
    (finite x → y = inf sy →
      f64Add? x y = some y ∧ f64Sub? x y = some (inf (!sy)) ∧ f64Div? x y = some (zero (sx != sy)) ∧
      f64Mul? x y = if f64Int x = 0 then none else some (inf (sx != sy))) ∧
    (x = inf sx → y = inf sy →
      f64Add? x y = (if sx = sy then some x else none) ∧ f64Sub? x y = (if sx = sy then none else some x) ∧
      f64Div? x y = none ∧ f64Mul? x y = some (inf (sx != sy))) ∧
    (finite x → finite y → (f64Lt x y = true ↔ f64Int x < f64Int y)) ∧
    (x = inf sx → ¬nan y → (f64Lt x y = true ↔ sx = true ∧ y ≠ x)) ∧
    (y = inf sy → ¬nan x → (f64Lt x y = true ↔ sy = false ∧ x ≠ y)) ∧
    (nan x → ¬nan y → fmin x y = y ∧ fmax x y = y) ∧ (¬nan x → nan y → fmin x y = x ∧ fmax x y = x) ∧
    (fmin x y = x ∨ fmin x y = y) ∧ (fmax x y = x ∨ fmax x y = y) ∧
    (¬nan x → ¬nan y →
      f64Lt x (fmin x y) = false ∧ f64Lt y (fmin x y) = false ∧ f64Lt (fmax x y) x = false ∧ f64Lt (fmax x y) y = false)

/-- Tier 2. R133: `ParseInt`, for a text of digits, for one with a minus sign before them, and for every other text.
-/
def Obligations.ParseIntReadsDecimalNumbers : Prop :=
  ∀ t : Text,
    let digit (c : Char) : Prop := 48 ≤ c.toNat ∧ c.toNat ≤ 57
    let value (ds : Text) : Nat := ds.foldl (fun n c => n * 10 + (c.toNat - 48)) 0
    (∀ ds, ds ≠ [] → (∀ c ∈ ds, digit c) → t = ds → value ds < 2 ^ 63 → parseInt t = BitVec.ofNat 64 (value ds)) ∧
    (∀ ds, ds ≠ [] → (∀ c ∈ ds, digit c) → t = '-' :: ds → value ds ≤ 2 ^ 63 →
      parseInt t = BitVec.ofInt 64 (-(value ds : Int))) ∧
    ((∀ ds, ds ≠ [] → (∀ c ∈ ds, digit c) →
        ¬(t = ds ∧ value ds < 2 ^ 63) ∧ ¬(t = '-' :: ds ∧ value ds ≤ 2 ^ 63)) →
      parseInt t = BitVec.ofInt 64 (-1))
end

