-- ==== Sys2Proof/Laws/Decode.lean ====
section
/-! SUPPORT. The lemmas that decoding and encoding meet in (30_encoding.md R100, R101, 40_message_model.md R131). -/

namespace Sys2Proof

/-- R101: the fields of the word made from fields are those fields. -/
@[simp] theorem cmdFields_cmdWord (c : CmdWord) : cmdFields (cmdWord c) = c := by
  obtain ⟨op, sel, sel2, imm⟩ := c
  simp only [cmdFields, cmdWord, CmdWord.mk.injEq]
  refine ⟨?_, ?_, ?_, ?_⟩ <;>
    (apply BitVec.eq_of_getLsbD_eq
     intro j hj
     simp only [BitVec.getLsbD_extractLsb', hj, decide_true, Bool.true_and, BitVec.getLsbD_append]
     repeat' split
     all_goals first | (exfalso; omega) | (congr 1; omega))

/-- R101: a command word is the word made from its fields. -/
@[simp] theorem cmdWord_cmdFields (w : Word) : cmdWord (cmdFields w) = w := by
  apply BitVec.eq_of_getLsbD_eq
  intro j hj
  simp only [cmdWord, cmdFields, BitVec.getLsbD_append, BitVec.getLsbD_extractLsb']
  repeat' split
  all_goals rw [decide_eq_true (by omega), Bool.true_and]
  all_goals congr 1
  all_goals omega

/-- R100: an operand word is read back from its transfers. -/
@[simp] theorem takeOperand_operandItems (a : Word64) (rest : List PortItem) :
    takeOperand (operandItems a ++ rest) = some (a, rest) := by
  simp only [operandItems, takeOperand, List.cons_append, List.nil_append, Option.some.injEq, Prod.mk.injEq, and_true]
  ext i h
  simp only [BitVec.getElem_append]
  split
  · simp_all
  · simp only [BitVec.getElem_extractLsb']
    rw [← BitVec.getLsbD_eq_getElem h]
    congr 1
    omega

/-- R104: the boolean is bit 0 of its `IMM8`. -/
@[simp] theorem flagByte_bit (f : Bool) : (flagByte f)[0] = f := by cases f <;> rfl

/-- R104: the other bits of a boolean's `IMM8` are zero. -/
@[simp] theorem flagByte_rest (f : Bool) : (flagByte f).extractLsb' 1 7 = 0#7 := by cases f <;> rfl

namespace Machine

/-- R131: a field value is read back from its record. -/
@[simp] theorem fieldOfRecord_recordOfField (fv : FieldValue) : fieldOfRecord (recordOfField fv) = some fv := by
  obtain ⟨⟨c, cs⟩, p⟩ := fv
  cases p <;> rfl

/-- R131: only a field value's own record gives it. -/
theorem recordOfField_of_fieldOfRecord {r : FieldRecord} {fv : FieldValue} (h : fieldOfRecord r = some fv) :
    r = recordOfField fv := by
  unfold fieldOfRecord at h
  split at h <;> first | (cases h; rfl) | cases h

/-- R131: a record gives a field value exactly when it is well formed. -/
theorem fieldOfRecord_isSome (r : FieldRecord) : (fieldOfRecord r).isSome = r.wf := by
  obtain ⟨n, i, t⟩ := r
  cases n <;> cases i <;> cases t <;> rfl

/-- R134: a message is read back from its record. -/
@[simp] theorem messageOfRecord_recordOfMessage (m : Message) : messageOfRecord (recordOfMessage m) = some m := by
  induction m with
  | nil => rfl
  | cons fv rest ih =>
    rw [recordOfMessage] at ih
    simp [recordOfMessage, messageOfRecord, ih]

/-- R134: only a message's own record gives it. -/
theorem recordOfMessage_of_messageOfRecord {r : MessageRecord} {m : Message} (h : messageOfRecord r = some m) :
    r = recordOfMessage m := by
  induction r generalizing m with
  | nil => cases h; rfl
  | cons f rest ih =>
    unfold messageOfRecord at h
    split at h
    · cases h
      rename_i hf hm
      rw [recordOfField_of_fieldOfRecord hf, ih hm]
      rfl
    · cases h
    · cases h

/-- R131, R134: a record gives a message exactly when it is well formed. -/
theorem messageOfRecord_isSome (r : MessageRecord) : (messageOfRecord r).isSome = messageRecordWf r := by
  induction r with
  | nil => rfl
  | cons f rest ih =>
    rw [messageRecordWf, List.all_cons, ← fieldOfRecord_isSome, ← messageRecordWf, ← ih, messageOfRecord]
    cases fieldOfRecord f <;> cases messageOfRecord rest <;> rfl

end Machine

end Sys2Proof
end

