-- ==== Sys2Proof/Laws/Float.lean ====
section
/-! SUPPORT. The small lemmas of the binary64 definitions (00_scope.md R12): the fields of a number whose sign is changed
or that is packed, and what rounding a quotient to an integer and choosing its last place do. -/

namespace Sys2Proof.Machine

/-- A free NaN is a NaN, whatever its sign and payload. -/
theorem freeNan_isNan (op : FpOp) (x y : F64) : f64IsNan (freeNan op x y) = true := by
  unfold freeNan f64IsNan f64Exp f64Frac
  generalize Config.nanBits op x y = q
  obtain ⟨sgn, p⟩ := q
  dsimp only
  have e : (BitVec.ofBool sgn ++ BitVec.allOnes 11 ++ (if p = 0#52 then 1#52 else p)).extractLsb' 52 11
      = BitVec.allOnes 11 := by
    apply BitVec.eq_of_getLsbD_eq
    intro j hj
    simp only [BitVec.getLsbD_extractLsb', BitVec.getLsbD_append]
    simp [hj]
  have f : (BitVec.ofBool sgn ++ BitVec.allOnes 11 ++ (if p = 0#52 then 1#52 else p)).extractLsb' 0 52
      = if p = 0#52 then 1#52 else p := by
    apply BitVec.eq_of_getLsbD_eq
    intro j hj
    simp only [BitVec.getLsbD_extractLsb', BitVec.getLsbD_append]
    simp [hj]
  rw [e, f]
  by_cases h : p = 0#52
  · simp [h]
  · have : p.toNat ≠ 0 := fun h0 => h (BitVec.eq_of_toNat_eq (by simpa using h0))
    simp [h, this]

/-! ### Fields and sign -/

@[simp] theorem f64Sign_neg (x : F64) : f64Sign (f64Neg x) = !f64Sign x := by simp [f64Sign, f64Neg]

/-- A sign change leaves the exponent and the fraction alone. -/
theorem f64Neg_fields (x : F64) :
    (f64Neg x).extractLsb' 52 11 = x.extractLsb' 52 11 ∧ (f64Neg x).extractLsb' 0 52 = x.extractLsb' 0 52 := by
  have e : ∀ k : Fin 11, (0x8000000000000000#64).getLsbD (52 + k) = false := by decide
  have f : ∀ k : Fin 52, (0x8000000000000000#64).getLsbD (0 + k) = false := by decide
  constructor <;> (apply BitVec.eq_of_getLsbD_eq; intro j hj)
  · simp only [f64Neg, BitVec.getLsbD_extractLsb', BitVec.getLsbD_xor, e ⟨j, hj⟩, Bool.xor_false]
  · simp only [f64Neg, BitVec.getLsbD_extractLsb', BitVec.getLsbD_xor, f ⟨j, hj⟩, Bool.xor_false]

@[simp] theorem f64Exp_neg (x : F64) : f64Exp (f64Neg x) = f64Exp x := by simp [f64Exp, f64Neg_fields]
@[simp] theorem f64Frac_neg (x : F64) : f64Frac (f64Neg x) = f64Frac x := by simp [f64Frac, f64Neg_fields]
@[simp] theorem f64Mag_neg (x : F64) : f64Mag (f64Neg x) = f64Mag x := by simp only [f64Mag, f64Exp_neg, f64Frac_neg]
@[simp] theorem f64IsFinite_neg (x : F64) : f64IsFinite (f64Neg x) = f64IsFinite x := by simp [f64IsFinite]
@[simp] theorem f64IsInf_neg (x : F64) : f64IsInf (f64Neg x) = f64IsInf x := by simp [f64IsInf]
@[simp] theorem f64IsNan_neg (x : F64) : f64IsNan (f64Neg x) = f64IsNan x := by simp [f64IsNan]

/-- A sign change negates the value. -/
@[simp] theorem f64Int_neg (x : F64) : f64Int (f64Neg x) = -f64Int x := by
  simp only [f64Int, f64Sign_neg, f64Mag_neg]
  cases f64Sign x <;> simp

/-- The magnitude is that of the value. -/
@[simp] theorem f64Int_natAbs (x : F64) : (f64Int x).natAbs = f64Mag x := by
  unfold f64Int
  split <;> simp

/-- A number is a NaN, an infinity or finite. -/
theorem f64_cases (x : F64) : f64IsNan x = true ∨ f64IsInf x = true ∨ f64IsFinite x = true := by
  simp only [f64IsNan, f64IsInf, f64IsFinite]
  by_cases h1 : f64Exp x = 2047 <;> by_cases h2 : f64Frac x = 0 <;> simp [h1, h2]

/-- A finite number is no NaN. -/
theorem f64IsNan_of_finite {x : F64} (h : f64IsFinite x = true) : f64IsNan x = false := by
  simp_all [f64IsFinite, f64IsNan]

/-- A finite number is no infinity. -/
theorem f64IsInf_of_finite {x : F64} (h : f64IsFinite x = true) : f64IsInf x = false := by
  simp_all [f64IsFinite, f64IsInf]

/-! ### Rounding -/

/-- The two ways a quotient is rounded, and which neighbour a tie goes to. -/
theorem roundDiv_cases (num den : Nat) :
    (roundDiv num den = num / den ∧ 2 * (num % den) ≤ den ∧ (2 * (num % den) = den → num / den % 2 = 0)) ∨
    (roundDiv num den = num / den + 1 ∧ den ≤ 2 * (num % den) ∧ (2 * (num % den) = den → num / den % 2 = 1)) := by
  unfold roundDiv
  dsimp only
  split
  · right; refine ⟨rfl, by omega, by omega⟩
  · left; refine ⟨rfl, by omega, by omega⟩

/-- No integer is nearer to the quotient than the rounded one; where another is as near, the rounded one is even. -/
theorem roundDiv_nearest (num den : Nat) (h : 0 < den) (k : Int) :
    |(roundDiv num den : Int) * den - num| ≤ |k * den - num| ∧
    (|(roundDiv num den : Int) * den - num| = |k * den - num| → k ≠ roundDiv num den → roundDiv num den % 2 = 0) := by
  have hd : (num : Int) = num / den * den + num % den := by
    have := Int.mul_ediv_add_emod (num : Int) den; rw [mul_comm] at this; exact this.symm
  have hq : ((num / den : Nat) : Int) = (num : Int) / den := by simp
  have hm : ((num % den : Nat) : Int) = (num : Int) % den := by simp
  have ml := Nat.mod_lt num h
  obtain ⟨e, c, p⟩ | ⟨e, c, p⟩ := roundDiv_cases num den
  all_goals
    rw [e]
    generalize num / den = q at *
    generalize num % den = r at *
    rw [← hq, ← hm] at hd
    rw [hd]
    have : ∀ a : Int, a * den - (q * den + r) = (a - q) * den - r := by intro a; ring
    rw [this, this]
    push_cast
    generalize hj : k - q = j
    have hk : k = q + j := by omega
    subst hk
  · have e0 : |((q:Int) - q) * den - r| = r := by simp
    rw [e0]
    rcases lt_trichotomy j 0 with hj | hj | hj
    · have : j * den ≤ -den := by nlinarith
      rw [abs_of_neg (by omega)]
      constructor
      · omega
      · intro h1; omega
    · subst hj; simp
    · have : (den : Int) ≤ j * den := by nlinarith
      rw [abs_of_nonneg (by omega)]
      constructor
      · omega
      · intro h1 h2; apply p; omega
  · have e0 : |((q:Int) + 1 - q) * den - r| = den - r := by
      rw [show ((q:Int) + 1 - q) * den - r = den - r by ring, abs_of_nonneg (by omega)]
    rw [e0]
    rcases lt_trichotomy j 1 with hj | hj | hj
    · have : j * den ≤ 0 := by nlinarith
      rw [abs_of_nonpos (by omega)]
      constructor
      · omega
      · intro h1 h2
        have := p (by omega)
        omega
    · subst hj; rw [show (1:Int) * den - r = den - r by ring, abs_of_nonneg (by omega)]; simp
    · have : 2 * (den : Int) ≤ j * den := by nlinarith
      rw [abs_of_nonneg (by omega)]
      constructor
      · omega
      · intro h1 h2; omega

/-- In units of its last place a quotient is below 2 ^ 53 and, but for the least place, at least 2 ^ 52. -/
theorem roundExp_spec (num den : Nat) (h : 0 < den) :
    num < 2 ^ 53 * (den * 2 ^ roundExp num den) ∧
      (0 < roundExp num den → 2 ^ 52 * (den * 2 ^ roundExp num den) ≤ num) := by
  have d1 : 2 ^ Nat.log2 den ≤ den := Nat.log2_self_le (by omega)
  have d2 : den < 2 ^ (Nat.log2 den + 1) := Nat.lt_log2_self
  have n2 : num < 2 ^ (Nat.log2 num + 1) := Nat.lt_log2_self
  unfold roundExp
  dsimp only
  generalize hn : Nat.log2 num = n at *
  generalize hdd : Nat.log2 den = d at *
  have up : num < 2 ^ 54 * (den * 2 ^ (n - d - 53)) := by
    calc num < 2 ^ (n + 1) := n2
      _ ≤ 2 ^ (54 + (d + (n - d - 53))) := Nat.pow_le_pow_right (by omega) (by omega)
      _ = 2 ^ 54 * (2 ^ d * 2 ^ (n - d - 53)) := by rw [pow_add, pow_add]
      _ ≤ _ := by gcongr
  have D : 0 < den * 2 ^ (n - d - 53) := by positivity
  split
  · rename_i h1
    have h2 := (Nat.le_div_iff_mul_le D).mp h1
    constructor
    · calc num < 2 ^ 54 * (den * 2 ^ (n - d - 53)) := up
        _ = 2 ^ 53 * (den * 2 ^ (n - d - 53 + 1)) := by ring
    · intro _
      calc 2 ^ 52 * (den * 2 ^ (n - d - 53 + 1)) = 2 ^ 53 * (den * 2 ^ (n - d - 53)) := by ring
        _ ≤ num := h2
  · rename_i h1
    have h2 := (Nat.div_lt_iff_lt_mul D).mp (not_le.mp h1)
    refine ⟨h2, fun h3 => ?_⟩
    have hnum : num ≠ 0 := by rintro rfl; simp at hn; omega
    have n1 : 2 ^ n ≤ num := hn ▸ Nat.log2_self_le hnum
    calc 2 ^ 52 * (den * 2 ^ (n - d - 53)) ≤ 2 ^ 52 * (2 ^ (d + 1) * 2 ^ (n - d - 53)) := by gcongr
      _ = 2 ^ (52 + ((d + 1) + (n - d - 53))) := by rw [pow_add 2 52, pow_add 2 (d + 1)]
      _ ≤ 2 ^ n := Nat.pow_le_pow_right (by omega) (by omega)
      _ ≤ num := n1

/-- The fields of a number packed from its sign and its magnitude bits, and its last bit. -/
theorem f64Pack_fields (neg : Bool) (m : Nat) (h : m < 2 ^ 63) :
    f64Exp (f64Pack neg m) = m / 2 ^ 52 ∧
    f64Frac (f64Pack neg m) = m % 2 ^ 52 ∧
    f64Sign (f64Pack neg m) = neg ∧ (f64Pack neg m).getLsbD 0 = decide (m % 2 = 1) := by
  have tn : (f64Pack neg m).toNat = (if neg then 2 ^ 63 else 0) + m := by
    unfold f64Pack
    rw [BitVec.toNat_append, BitVec.toNat_ofNat, Nat.mod_eq_of_lt h, ← Nat.shiftLeft_add_eq_or_of_lt h]
    cases neg <;> simp [Nat.shiftLeft_eq]
  refine ⟨?_, ?_, ?_, ?_⟩
  · rw [f64Exp, BitVec.extractLsb'_toNat, tn, Nat.shiftRight_eq_div_pow]
    split <;> omega
  · rw [f64Frac, BitVec.extractLsb'_toNat, tn]
    simp only [Nat.shiftRight_zero]
    split <;> omega
  · rw [f64Sign, BitVec.getLsbD, tn, Nat.testBit_eq_decide_div_mod_eq]
    cases neg <;> (simp; omega)
  · rw [BitVec.getLsbD, tn, Nat.testBit_eq_decide_div_mod_eq]
    split <;> simp
    omega

/-- The magnitude of a number packed from the exponent of its last place and its significand. -/
theorem f64Mag_pack (neg : Bool) (e q : Nat) (hq : q ≤ 2 ^ 53) (he : 0 < e → 2 ^ 52 ≤ q)
    (hm : e * 2 ^ 52 + q < 2047 * 2 ^ 52) :
    f64Mag (f64Pack neg (e * 2 ^ 52 + q)) = q * 2 ^ e := by
  obtain ⟨h1, h2, -⟩ := f64Pack_fields neg (e * 2 ^ 52 + q) (by omega)
  rw [f64Mag, h1, h2]
  have d : (e * 2 ^ 52 + q) / 2 ^ 52 = e + q / 2 ^ 52 := by omega
  have m : (e * 2 ^ 52 + q) % 2 ^ 52 = q % 2 ^ 52 := by omega
  rw [d, m]
  by_cases c : q < 2 ^ 52
  · have : e = 0 := by by_contra h; have := he (by omega); omega
    subst this
    rw [Nat.div_eq_of_lt c, Nat.mod_eq_of_lt c]; simp
  · by_cases c2 : q = 2 ^ 53
    · subst c2
      rw [if_neg (by omega), show (2:Nat) ^ 53 / 2 ^ 52 = 2 by decide, show e + 2 - 1 = e + 1 by omega,
        show (2:Nat) ^ 53 % 2 ^ 52 = 0 by decide, pow_succ 2 e]
      ring
    · have a : q / 2 ^ 52 = 1 := by omega
      have b : 2 ^ 52 + q % 2 ^ 52 = q := by omega
      rw [a, if_neg (by omega), b, show e + 1 - 1 = e by omega]

/-- A magnitude is a multiple of a given place, or below the numbers whose last place that is. -/
theorem f64Mag_cases (y : F64) (e : Nat) :
    (∃ k : Nat, f64Mag y = k * 2 ^ e) ∨ (0 < e ∧ f64Mag y < 2 ^ 52 * 2 ^ e) := by
  have fr : f64Frac y < 2 ^ 52 := (y.extractLsb' 0 52).isLt
  unfold f64Mag
  split
  · rename_i h
    rcases Nat.eq_zero_or_pos e with rfl | h
    · left; exact ⟨f64Frac y, by simp⟩
    · right; exact ⟨h, by nlinarith [Nat.one_le_two_pow (n := e)]⟩
  · by_cases h : e ≤ f64Exp y - 1
    · left; exact ⟨(2 ^ 52 + f64Frac y) * 2 ^ (f64Exp y - 1 - e), by rw [mul_assoc, ← pow_add]; congr 2; omega⟩
    · right
      refine ⟨by omega, ?_⟩
      calc (2 ^ 52 + f64Frac y) * 2 ^ (f64Exp y - 1) < 2 ^ 53 * 2 ^ (f64Exp y - 1) := by
            apply Nat.mul_lt_mul_of_pos_right (by omega) (by positivity)
        _ = 2 ^ 52 * 2 ^ (f64Exp y - 1 + 1) := by ring
        _ ≤ _ := by gcongr; omega; omega

/-- The significand of a rounded quotient, in units of its last place. -/
theorem roundDiv_bounds (num den : Nat) (hd : 0 < den) :
    roundDiv num (den * 2 ^ roundExp num den) ≤ 2 ^ 53 ∧
    (0 < roundExp num den → 2 ^ 52 ≤ roundDiv num (den * 2 ^ roundExp num den)) := by
  obtain ⟨h1, h2⟩ := roundExp_spec num den hd
  have D0 : 0 < den * 2 ^ roundExp num den := by positivity
  generalize roundExp num den = e at *
  generalize den * 2 ^ e = D at *
  have q1 : num / D < 2 ^ 53 := (Nat.div_lt_iff_lt_mul D0).mpr h1
  have q2 : 0 < e → 2 ^ 52 ≤ num / D := fun h => (Nat.le_div_iff_mul_le D0).mpr (h2 h)
  obtain ⟨g, -⟩ | ⟨g, -⟩ := roundDiv_cases num D <;> rw [g] <;> constructor <;>
    (try intro h; have := q2 h) <;> omega

end Sys2Proof.Machine
end

