-- ==== Sys2Proof/Laws/State.lean ====
section
/-! SUPPORT. One lemma per field of `State` per update, each true by `rfl`: no later proof unfolds a record update. -/

namespace Sys2Proof.Machine

/-! ### The fields after an output transaction -/

@[simp] theorem State.emit_params (s : State) (o : Output) : (s.emit o).params = s.params := rfl
@[simp] theorem State.emit_bank (s : State) (o : Output) : (s.emit o).bank = s.bank := rfl
@[simp] theorem State.emit_fd (s : State) (o : Output) : (s.emit o).fd = s.fd := rfl
@[simp] theorem State.emit_pc (s : State) (o : Output) : (s.emit o).pc = s.pc := rfl
@[simp] theorem State.emit_dg (s : State) (o : Output) : (s.emit o).dg = s.dg := rfl
@[simp] theorem State.emit_decTgt (s : State) (o : Output) : (s.emit o).decTgt = s.decTgt := rfl
@[simp] theorem State.emit_rcd (s : State) (o : Output) : (s.emit o).rcd = s.rcd := rfl
@[simp] theorem State.emit_csr (s : State) (o : Output) : (s.emit o).csr = s.csr := rfl
@[simp] theorem State.emit_lastFault (s : State) (o : Output) : (s.emit o).lastFault = s.lastFault := rfl
@[simp] theorem State.emit_lastCause (s : State) (o : Output) : (s.emit o).lastCause = s.lastCause := rfl
@[simp] theorem State.emit_cmd (s : State) (o : Output) : (s.emit o).cmd = s.cmd := rfl
@[simp] theorem State.emit_resetIn (s : State) (o : Output) : (s.emit o).resetIn = s.resetIn := rfl
@[simp] theorem State.emit_decAnswers (s : State) (o : Output) : (s.emit o).decAnswers = s.decAnswers := rfl
@[simp] theorem State.emit_encAnswers (s : State) (o : Output) : (s.emit o).encAnswers = s.encAnswers := rfl
@[simp] theorem State.emit_out (s : State) (o : Output) : (s.emit o).out = s.out ++ [o] := rfl

/-! ### The fields after an event to a sink port -/

@[simp] theorem State.sinkEvent_params (s : State) (k : Nat) (ev : SinkEvent) :
    (s.sinkEvent k ev).params = s.params := rfl
@[simp] theorem State.sinkEvent_bank (s : State) (k : Nat) (ev : SinkEvent) : (s.sinkEvent k ev).bank = s.bank := rfl
@[simp] theorem State.sinkEvent_fd (s : State) (k : Nat) (ev : SinkEvent) : (s.sinkEvent k ev).fd = s.fd := rfl
@[simp] theorem State.sinkEvent_pc (s : State) (k : Nat) (ev : SinkEvent) : (s.sinkEvent k ev).pc = s.pc := rfl
@[simp] theorem State.sinkEvent_dg (s : State) (k : Nat) (ev : SinkEvent) : (s.sinkEvent k ev).dg = s.dg := rfl
@[simp] theorem State.sinkEvent_decTgt (s : State) (k : Nat) (ev : SinkEvent) :
    (s.sinkEvent k ev).decTgt = s.decTgt := rfl
@[simp] theorem State.sinkEvent_rcd (s : State) (k : Nat) (ev : SinkEvent) : (s.sinkEvent k ev).rcd = s.rcd := rfl
@[simp] theorem State.sinkEvent_csr (s : State) (k : Nat) (ev : SinkEvent) : (s.sinkEvent k ev).csr = s.csr := rfl
@[simp] theorem State.sinkEvent_lastFault (s : State) (k : Nat) (ev : SinkEvent) :
    (s.sinkEvent k ev).lastFault = s.lastFault := rfl
@[simp] theorem State.sinkEvent_lastCause (s : State) (k : Nat) (ev : SinkEvent) :
    (s.sinkEvent k ev).lastCause = s.lastCause := rfl
@[simp] theorem State.sinkEvent_cmd (s : State) (k : Nat) (ev : SinkEvent) : (s.sinkEvent k ev).cmd = s.cmd := rfl
@[simp] theorem State.sinkEvent_resetIn (s : State) (k : Nat) (ev : SinkEvent) :
    (s.sinkEvent k ev).resetIn = s.resetIn := rfl
@[simp] theorem State.sinkEvent_decAnswers (s : State) (k : Nat) (ev : SinkEvent) :
    (s.sinkEvent k ev).decAnswers = s.decAnswers := rfl
@[simp] theorem State.sinkEvent_encAnswers (s : State) (k : Nat) (ev : SinkEvent) :
    (s.sinkEvent k ev).encAnswers = s.encAnswers := rfl
@[simp] theorem State.sinkEvent_out (s : State) (k : Nat) (ev : SinkEvent) :
    (s.sinkEvent k ev).out = s.out ++ [.sink k ev] := rfl

/-! ### The fields after a write of a BFB register -/

@[simp] theorem State.setBuf_params (s : State) (b : Nat) (r : Buf) : (s.setBuf b r).params = s.params := rfl
@[simp] theorem State.setBuf_bank (s : State) (b : Nat) (r : Buf) : (s.setBuf b r).bank = s.bank.set b r := rfl
@[simp] theorem State.setBuf_fd (s : State) (b : Nat) (r : Buf) : (s.setBuf b r).fd = s.fd := rfl
@[simp] theorem State.setBuf_pc (s : State) (b : Nat) (r : Buf) : (s.setBuf b r).pc = s.pc := rfl
@[simp] theorem State.setBuf_dg (s : State) (b : Nat) (r : Buf) : (s.setBuf b r).dg = s.dg := rfl
@[simp] theorem State.setBuf_decTgt (s : State) (b : Nat) (r : Buf) : (s.setBuf b r).decTgt = s.decTgt := rfl
@[simp] theorem State.setBuf_rcd (s : State) (b : Nat) (r : Buf) : (s.setBuf b r).rcd = s.rcd := rfl
@[simp] theorem State.setBuf_csr (s : State) (b : Nat) (r : Buf) : (s.setBuf b r).csr = s.csr := rfl
@[simp] theorem State.setBuf_lastFault (s : State) (b : Nat) (r : Buf) : (s.setBuf b r).lastFault = s.lastFault := rfl
@[simp] theorem State.setBuf_lastCause (s : State) (b : Nat) (r : Buf) : (s.setBuf b r).lastCause = s.lastCause := rfl
@[simp] theorem State.setBuf_cmd (s : State) (b : Nat) (r : Buf) : (s.setBuf b r).cmd = s.cmd := rfl
@[simp] theorem State.setBuf_resetIn (s : State) (b : Nat) (r : Buf) : (s.setBuf b r).resetIn = s.resetIn := rfl
@[simp] theorem State.setBuf_decAnswers (s : State) (b : Nat) (r : Buf) :
    (s.setBuf b r).decAnswers = s.decAnswers := rfl
@[simp] theorem State.setBuf_encAnswers (s : State) (b : Nat) (r : Buf) :
    (s.setBuf b r).encAnswers = s.encAnswers := rfl
@[simp] theorem State.setBuf_out (s : State) (b : Nat) (r : Buf) : (s.setBuf b r).out = s.out := rfl

/-! ### The fields after the taking of a decoder's answer -/

@[simp] theorem State.popDec_params (s : State) (i : Nat) : (s.popDec i).params = s.params := rfl
@[simp] theorem State.popDec_bank (s : State) (i : Nat) : (s.popDec i).bank = s.bank := rfl
@[simp] theorem State.popDec_fd (s : State) (i : Nat) : (s.popDec i).fd = s.fd := rfl
@[simp] theorem State.popDec_pc (s : State) (i : Nat) : (s.popDec i).pc = s.pc := rfl
@[simp] theorem State.popDec_dg (s : State) (i : Nat) : (s.popDec i).dg = s.dg := rfl
@[simp] theorem State.popDec_decTgt (s : State) (i : Nat) : (s.popDec i).decTgt = s.decTgt := rfl
@[simp] theorem State.popDec_rcd (s : State) (i : Nat) : (s.popDec i).rcd = s.rcd := rfl
@[simp] theorem State.popDec_csr (s : State) (i : Nat) : (s.popDec i).csr = s.csr := rfl
@[simp] theorem State.popDec_lastFault (s : State) (i : Nat) : (s.popDec i).lastFault = s.lastFault := rfl
@[simp] theorem State.popDec_lastCause (s : State) (i : Nat) : (s.popDec i).lastCause = s.lastCause := rfl
@[simp] theorem State.popDec_cmd (s : State) (i : Nat) : (s.popDec i).cmd = s.cmd := rfl
@[simp] theorem State.popDec_resetIn (s : State) (i : Nat) : (s.popDec i).resetIn = s.resetIn := rfl
@[simp] theorem State.popDec_decAnswers (s : State) (i : Nat) :
    (s.popDec i).decAnswers = s.decAnswers.modify i List.tail := rfl
@[simp] theorem State.popDec_encAnswers (s : State) (i : Nat) : (s.popDec i).encAnswers = s.encAnswers := rfl
@[simp] theorem State.popDec_out (s : State) (i : Nat) : (s.popDec i).out = s.out := rfl

/-! ### The fields after the taking of an encoder's answer -/

@[simp] theorem State.popEnc_params (s : State) (e : Nat) : (s.popEnc e).params = s.params := rfl
@[simp] theorem State.popEnc_bank (s : State) (e : Nat) : (s.popEnc e).bank = s.bank := rfl
@[simp] theorem State.popEnc_fd (s : State) (e : Nat) : (s.popEnc e).fd = s.fd := rfl
@[simp] theorem State.popEnc_pc (s : State) (e : Nat) : (s.popEnc e).pc = s.pc := rfl
@[simp] theorem State.popEnc_dg (s : State) (e : Nat) : (s.popEnc e).dg = s.dg := rfl
@[simp] theorem State.popEnc_decTgt (s : State) (e : Nat) : (s.popEnc e).decTgt = s.decTgt := rfl
@[simp] theorem State.popEnc_rcd (s : State) (e : Nat) : (s.popEnc e).rcd = s.rcd := rfl
@[simp] theorem State.popEnc_csr (s : State) (e : Nat) : (s.popEnc e).csr = s.csr := rfl
@[simp] theorem State.popEnc_lastFault (s : State) (e : Nat) : (s.popEnc e).lastFault = s.lastFault := rfl
@[simp] theorem State.popEnc_lastCause (s : State) (e : Nat) : (s.popEnc e).lastCause = s.lastCause := rfl
@[simp] theorem State.popEnc_cmd (s : State) (e : Nat) : (s.popEnc e).cmd = s.cmd := rfl
@[simp] theorem State.popEnc_resetIn (s : State) (e : Nat) : (s.popEnc e).resetIn = s.resetIn := rfl
@[simp] theorem State.popEnc_decAnswers (s : State) (e : Nat) : (s.popEnc e).decAnswers = s.decAnswers := rfl
@[simp] theorem State.popEnc_encAnswers (s : State) (e : Nat) :
    (s.popEnc e).encAnswers = s.encAnswers.modify e List.tail := rfl
@[simp] theorem State.popEnc_out (s : State) (e : Nat) : (s.popEnc e).out = s.out := rfl

/-! ### The fields after the taking of a command's transfers -/

@[simp] theorem State.withCmd_params (s : State) (rest : List PortItem) : (s.withCmd rest).params = s.params := rfl
@[simp] theorem State.withCmd_bank (s : State) (rest : List PortItem) : (s.withCmd rest).bank = s.bank := rfl
@[simp] theorem State.withCmd_fd (s : State) (rest : List PortItem) : (s.withCmd rest).fd = s.fd := rfl
@[simp] theorem State.withCmd_pc (s : State) (rest : List PortItem) : (s.withCmd rest).pc = s.pc := rfl
@[simp] theorem State.withCmd_dg (s : State) (rest : List PortItem) : (s.withCmd rest).dg = s.dg := rfl
@[simp] theorem State.withCmd_decTgt (s : State) (rest : List PortItem) : (s.withCmd rest).decTgt = s.decTgt := rfl
@[simp] theorem State.withCmd_rcd (s : State) (rest : List PortItem) : (s.withCmd rest).rcd = s.rcd := rfl
@[simp] theorem State.withCmd_csr (s : State) (rest : List PortItem) : (s.withCmd rest).csr = s.csr := rfl
@[simp] theorem State.withCmd_lastFault (s : State) (rest : List PortItem) :
    (s.withCmd rest).lastFault = s.lastFault := rfl
@[simp] theorem State.withCmd_lastCause (s : State) (rest : List PortItem) :
    (s.withCmd rest).lastCause = s.lastCause := rfl
@[simp] theorem State.withCmd_cmd (s : State) (rest : List PortItem) : (s.withCmd rest).cmd = rest := rfl
@[simp] theorem State.withCmd_resetIn (s : State) (rest : List PortItem) : (s.withCmd rest).resetIn = s.resetIn := rfl
@[simp] theorem State.withCmd_decAnswers (s : State) (rest : List PortItem) :
    (s.withCmd rest).decAnswers = s.decAnswers := rfl
@[simp] theorem State.withCmd_encAnswers (s : State) (rest : List PortItem) :
    (s.withCmd rest).encAnswers = s.encAnswers := rfl
@[simp] theorem State.withCmd_out (s : State) (rest : List PortItem) : (s.withCmd rest).out = s.out := rfl

/-! ### The fields after an OK response with a payload -/

@[simp] theorem respondList_params (v : Word64) (l : List PayloadItem) (s : State) :
    (respondList v l s).params = s.params := rfl
@[simp] theorem respondList_bank (v : Word64) (l : List PayloadItem) (s : State) :
    (respondList v l s).bank = s.bank := rfl
@[simp] theorem respondList_fd (v : Word64) (l : List PayloadItem) (s : State) : (respondList v l s).fd = s.fd := rfl
@[simp] theorem respondList_pc (v : Word64) (l : List PayloadItem) (s : State) : (respondList v l s).pc = s.pc := rfl
@[simp] theorem respondList_dg (v : Word64) (l : List PayloadItem) (s : State) : (respondList v l s).dg = s.dg := rfl
@[simp] theorem respondList_decTgt (v : Word64) (l : List PayloadItem) (s : State) :
    (respondList v l s).decTgt = s.decTgt := rfl
@[simp] theorem respondList_rcd (v : Word64) (l : List PayloadItem) (s : State) :
    (respondList v l s).rcd = s.rcd := rfl
@[simp] theorem respondList_csr (v : Word64) (l : List PayloadItem) (s : State) :
    (respondList v l s).csr = s.csr := rfl
@[simp] theorem respondList_lastFault (v : Word64) (l : List PayloadItem) (s : State) :
    (respondList v l s).lastFault = s.lastFault := rfl
@[simp] theorem respondList_lastCause (v : Word64) (l : List PayloadItem) (s : State) :
    (respondList v l s).lastCause = s.lastCause := rfl
@[simp] theorem respondList_cmd (v : Word64) (l : List PayloadItem) (s : State) :
    (respondList v l s).cmd = s.cmd := rfl
@[simp] theorem respondList_resetIn (v : Word64) (l : List PayloadItem) (s : State) :
    (respondList v l s).resetIn = s.resetIn := rfl
@[simp] theorem respondList_decAnswers (v : Word64) (l : List PayloadItem) (s : State) :
    (respondList v l s).decAnswers = s.decAnswers := rfl
@[simp] theorem respondList_encAnswers (v : Word64) (l : List PayloadItem) (s : State) :
    (respondList v l s).encAnswers = s.encAnswers := rfl
@[simp] theorem respondList_out (v : Word64) (l : List PayloadItem) (s : State) :
    (respondList v l s).out = s.out ++ [.resp ⟨.ok, .none, v, l⟩] := rfl

/-! ### The fields after an OK response -/

@[simp] theorem respond_params (v : Word64) (s : State) : (respond v s).params = s.params := rfl
@[simp] theorem respond_bank (v : Word64) (s : State) : (respond v s).bank = s.bank := rfl
@[simp] theorem respond_fd (v : Word64) (s : State) : (respond v s).fd = s.fd := rfl
@[simp] theorem respond_pc (v : Word64) (s : State) : (respond v s).pc = s.pc := rfl
@[simp] theorem respond_dg (v : Word64) (s : State) : (respond v s).dg = s.dg := rfl
@[simp] theorem respond_decTgt (v : Word64) (s : State) : (respond v s).decTgt = s.decTgt := rfl
@[simp] theorem respond_rcd (v : Word64) (s : State) : (respond v s).rcd = s.rcd := rfl
@[simp] theorem respond_csr (v : Word64) (s : State) : (respond v s).csr = s.csr := rfl
@[simp] theorem respond_lastFault (v : Word64) (s : State) : (respond v s).lastFault = s.lastFault := rfl
@[simp] theorem respond_lastCause (v : Word64) (s : State) : (respond v s).lastCause = s.lastCause := rfl
@[simp] theorem respond_cmd (v : Word64) (s : State) : (respond v s).cmd = s.cmd := rfl
@[simp] theorem respond_resetIn (v : Word64) (s : State) : (respond v s).resetIn = s.resetIn := rfl
@[simp] theorem respond_decAnswers (v : Word64) (s : State) : (respond v s).decAnswers = s.decAnswers := rfl
@[simp] theorem respond_encAnswers (v : Word64) (s : State) : (respond v s).encAnswers = s.encAnswers := rfl
@[simp] theorem respond_out (v : Word64) (s : State) : (respond v s).out = s.out ++ [.resp ⟨.ok, .none, v, []⟩] := rfl

/-! ### The fields after a fault -/

@[simp] theorem raise_params (st : Status) (c : Cause) (s : State) : (raise st c s).params = s.params := rfl
@[simp] theorem raise_bank (st : Status) (c : Cause) (s : State) : (raise st c s).bank = s.bank := rfl
@[simp] theorem raise_fd (st : Status) (c : Cause) (s : State) : (raise st c s).fd = s.fd := rfl
@[simp] theorem raise_pc (st : Status) (c : Cause) (s : State) : (raise st c s).pc = s.pc := rfl
@[simp] theorem raise_dg (st : Status) (c : Cause) (s : State) : (raise st c s).dg = s.dg := rfl
@[simp] theorem raise_decTgt (st : Status) (c : Cause) (s : State) : (raise st c s).decTgt = s.decTgt := rfl
@[simp] theorem raise_rcd (st : Status) (c : Cause) (s : State) : (raise st c s).rcd = s.rcd := rfl
@[simp] theorem raise_csr (st : Status) (c : Cause) (s : State) : (raise st c s).csr = s.csr := rfl
@[simp] theorem raise_lastFault (st : Status) (c : Cause) (s : State) : (raise st c s).lastFault = st := rfl
@[simp] theorem raise_lastCause (st : Status) (c : Cause) (s : State) : (raise st c s).lastCause = c := rfl
@[simp] theorem raise_cmd (st : Status) (c : Cause) (s : State) : (raise st c s).cmd = s.cmd := rfl
@[simp] theorem raise_resetIn (st : Status) (c : Cause) (s : State) : (raise st c s).resetIn = s.resetIn := rfl
@[simp] theorem raise_decAnswers (st : Status) (c : Cause) (s : State) :
    (raise st c s).decAnswers = s.decAnswers := rfl
@[simp] theorem raise_encAnswers (st : Status) (c : Cause) (s : State) :
    (raise st c s).encAnswers = s.encAnswers := rfl
@[simp] theorem raise_out (st : Status) (c : Cause) (s : State) :
    (raise st c s).out = s.out ++ [.resp ⟨st, c, 0#64, []⟩] := rfl

/-! ### The fields after an `InvalidArgument` fault -/

@[simp] theorem raiseArg_params (c : Cause) (s : State) : (raiseArg c s).params = s.params := rfl
@[simp] theorem raiseArg_bank (c : Cause) (s : State) : (raiseArg c s).bank = s.bank := rfl
@[simp] theorem raiseArg_fd (c : Cause) (s : State) : (raiseArg c s).fd = s.fd := rfl
@[simp] theorem raiseArg_pc (c : Cause) (s : State) : (raiseArg c s).pc = s.pc := rfl
@[simp] theorem raiseArg_dg (c : Cause) (s : State) : (raiseArg c s).dg = s.dg := rfl
@[simp] theorem raiseArg_decTgt (c : Cause) (s : State) : (raiseArg c s).decTgt = s.decTgt := rfl
@[simp] theorem raiseArg_rcd (c : Cause) (s : State) : (raiseArg c s).rcd = s.rcd := rfl
@[simp] theorem raiseArg_csr (c : Cause) (s : State) : (raiseArg c s).csr = s.csr := rfl
@[simp] theorem raiseArg_lastFault (c : Cause) (s : State) : (raiseArg c s).lastFault = .invalidArgument := rfl
@[simp] theorem raiseArg_lastCause (c : Cause) (s : State) : (raiseArg c s).lastCause = c := rfl
@[simp] theorem raiseArg_cmd (c : Cause) (s : State) : (raiseArg c s).cmd = s.cmd := rfl
@[simp] theorem raiseArg_resetIn (c : Cause) (s : State) : (raiseArg c s).resetIn = s.resetIn := rfl
@[simp] theorem raiseArg_decAnswers (c : Cause) (s : State) : (raiseArg c s).decAnswers = s.decAnswers := rfl
@[simp] theorem raiseArg_encAnswers (c : Cause) (s : State) : (raiseArg c s).encAnswers = s.encAnswers := rfl
@[simp] theorem raiseArg_out (c : Cause) (s : State) :
    (raiseArg c s).out = s.out ++ [.resp ⟨.invalidArgument, c, 0#64, []⟩] := rfl

/-! ### The fields after a `setTarget` call -/

@[simp] theorem callSetTarget_params (k : Nat) (s : State) (i : Nat) : (callSetTarget k s i).params = s.params := rfl
@[simp] theorem callSetTarget_bank (k : Nat) (s : State) (i : Nat) : (callSetTarget k s i).bank = s.bank := rfl
@[simp] theorem callSetTarget_fd (k : Nat) (s : State) (i : Nat) : (callSetTarget k s i).fd = s.fd := rfl
@[simp] theorem callSetTarget_pc (k : Nat) (s : State) (i : Nat) : (callSetTarget k s i).pc = s.pc := rfl
@[simp] theorem callSetTarget_dg (k : Nat) (s : State) (i : Nat) : (callSetTarget k s i).dg = s.dg := rfl
@[simp] theorem callSetTarget_decTgt (k : Nat) (s : State) (i : Nat) :
    (callSetTarget k s i).decTgt = s.decTgt.set i k := rfl
@[simp] theorem callSetTarget_rcd (k : Nat) (s : State) (i : Nat) : (callSetTarget k s i).rcd = s.rcd := rfl
@[simp] theorem callSetTarget_csr (k : Nat) (s : State) (i : Nat) : (callSetTarget k s i).csr = s.csr := rfl
@[simp] theorem callSetTarget_lastFault (k : Nat) (s : State) (i : Nat) :
    (callSetTarget k s i).lastFault = s.lastFault := rfl
@[simp] theorem callSetTarget_lastCause (k : Nat) (s : State) (i : Nat) :
    (callSetTarget k s i).lastCause = s.lastCause := rfl
@[simp] theorem callSetTarget_cmd (k : Nat) (s : State) (i : Nat) : (callSetTarget k s i).cmd = s.cmd := rfl
@[simp] theorem callSetTarget_resetIn (k : Nat) (s : State) (i : Nat) :
    (callSetTarget k s i).resetIn = s.resetIn := rfl
@[simp] theorem callSetTarget_decAnswers (k : Nat) (s : State) (i : Nat) :
    (callSetTarget k s i).decAnswers = s.decAnswers := rfl
@[simp] theorem callSetTarget_encAnswers (k : Nat) (s : State) (i : Nat) :
    (callSetTarget k s i).encAnswers = s.encAnswers := rfl
@[simp] theorem callSetTarget_out (k : Nat) (s : State) (i : Nat) :
    (callSetTarget k s i).out = s.out ++ [.dec i (.setTarget k)] := rfl

/-! ### The fields after a recorded pulse -/

@[simp] theorem recordPulse_params (d : F64) (s : State) : (recordPulse d s).params = s.params := rfl
@[simp] theorem recordPulse_bank (d : F64) (s : State) : (recordPulse d s).bank = s.bank := rfl
@[simp] theorem recordPulse_fd (d : F64) (s : State) : (recordPulse d s).fd = s.fd := rfl
@[simp] theorem recordPulse_pc (d : F64) (s : State) : (recordPulse d s).pc = s.pc := rfl
@[simp] theorem recordPulse_dg (d : F64) (s : State) : (recordPulse d s).dg = s.dg := rfl
@[simp] theorem recordPulse_decTgt (d : F64) (s : State) : (recordPulse d s).decTgt = s.decTgt := rfl
@[simp] theorem recordPulse_rcd (d : F64) (s : State) :
    (recordPulse d s).rcd = { s.rcd with pulses := s.rcd.pulses ++ [⟨s.rcd.samples.length, d⟩] } := rfl
@[simp] theorem recordPulse_csr (d : F64) (s : State) : (recordPulse d s).csr = s.csr := rfl
@[simp] theorem recordPulse_lastFault (d : F64) (s : State) : (recordPulse d s).lastFault = s.lastFault := rfl
@[simp] theorem recordPulse_lastCause (d : F64) (s : State) : (recordPulse d s).lastCause = s.lastCause := rfl
@[simp] theorem recordPulse_cmd (d : F64) (s : State) : (recordPulse d s).cmd = s.cmd := rfl
@[simp] theorem recordPulse_resetIn (d : F64) (s : State) : (recordPulse d s).resetIn = s.resetIn := rfl
@[simp] theorem recordPulse_decAnswers (d : F64) (s : State) : (recordPulse d s).decAnswers = s.decAnswers := rfl
@[simp] theorem recordPulse_encAnswers (d : F64) (s : State) : (recordPulse d s).encAnswers = s.encAnswers := rfl
@[simp] theorem recordPulse_out (d : F64) (s : State) : (recordPulse d s).out = s.out := rfl

/-! ### The fields after the start of a capture -/

@[simp] theorem startCapture_params (f : Bool) (n : Nat) (s : State) : (startCapture f n s).params = s.params := rfl
@[simp] theorem startCapture_bank (f : Bool) (n : Nat) (s : State) : (startCapture f n s).bank = s.bank := rfl
@[simp] theorem startCapture_fd (f : Bool) (n : Nat) (s : State) : (startCapture f n s).fd = s.fd := rfl
@[simp] theorem startCapture_pc (f : Bool) (n : Nat) (s : State) : (startCapture f n s).pc = s.pc := rfl
@[simp] theorem startCapture_dg (f : Bool) (n : Nat) (s : State) : (startCapture f n s).dg = s.dg := rfl
@[simp] theorem startCapture_decTgt (f : Bool) (n : Nat) (s : State) : (startCapture f n s).decTgt = s.decTgt := rfl
@[simp] theorem startCapture_rcd (f : Bool) (n : Nat) (s : State) :
    (startCapture f n s).rcd = { s.rcd with mode := .capturing, free := f, samples := [], pulses := [], budget := n } := rfl
@[simp] theorem startCapture_csr (f : Bool) (n : Nat) (s : State) : (startCapture f n s).csr = s.csr := rfl
@[simp] theorem startCapture_lastFault (f : Bool) (n : Nat) (s : State) :
    (startCapture f n s).lastFault = s.lastFault := rfl
@[simp] theorem startCapture_lastCause (f : Bool) (n : Nat) (s : State) :
    (startCapture f n s).lastCause = s.lastCause := rfl
@[simp] theorem startCapture_cmd (f : Bool) (n : Nat) (s : State) : (startCapture f n s).cmd = s.cmd := rfl
@[simp] theorem startCapture_resetIn (f : Bool) (n : Nat) (s : State) :
    (startCapture f n s).resetIn = s.resetIn := rfl
@[simp] theorem startCapture_decAnswers (f : Bool) (n : Nat) (s : State) :
    (startCapture f n s).decAnswers = s.decAnswers := rfl
@[simp] theorem startCapture_encAnswers (f : Bool) (n : Nat) (s : State) :
    (startCapture f n s).encAnswers = s.encAnswers := rfl
@[simp] theorem startCapture_out (f : Bool) (n : Nat) (s : State) : (startCapture f n s).out = s.out := rfl

/-! ### The fields after the advance of FD by one sample -/

@[simp] theorem fdAdvance_params (x : Byte) (s : State) : (fdAdvance x s).params = s.params := rfl
@[simp] theorem fdAdvance_bank (x : Byte) (s : State) : (fdAdvance x s).bank = s.bank := rfl
@[simp] theorem fdAdvance_fd (x : Byte) (s : State) :
    (fdAdvance x s).fd = { s.fd with hist := shiftHist x s.fd.hist, cnt := s.fd.cnt + 1 } := rfl
@[simp] theorem fdAdvance_pc (x : Byte) (s : State) : (fdAdvance x s).pc = s.pc := rfl
@[simp] theorem fdAdvance_dg (x : Byte) (s : State) : (fdAdvance x s).dg = s.dg := rfl
@[simp] theorem fdAdvance_decTgt (x : Byte) (s : State) : (fdAdvance x s).decTgt = s.decTgt := rfl
@[simp] theorem fdAdvance_rcd (x : Byte) (s : State) : (fdAdvance x s).rcd = s.rcd := rfl
@[simp] theorem fdAdvance_csr (x : Byte) (s : State) : (fdAdvance x s).csr = s.csr := rfl
@[simp] theorem fdAdvance_lastFault (x : Byte) (s : State) : (fdAdvance x s).lastFault = s.lastFault := rfl
@[simp] theorem fdAdvance_lastCause (x : Byte) (s : State) : (fdAdvance x s).lastCause = s.lastCause := rfl
@[simp] theorem fdAdvance_cmd (x : Byte) (s : State) : (fdAdvance x s).cmd = s.cmd := rfl
@[simp] theorem fdAdvance_resetIn (x : Byte) (s : State) : (fdAdvance x s).resetIn = s.resetIn := rfl
@[simp] theorem fdAdvance_decAnswers (x : Byte) (s : State) : (fdAdvance x s).decAnswers = s.decAnswers := rfl
@[simp] theorem fdAdvance_encAnswers (x : Byte) (s : State) : (fdAdvance x s).encAnswers = s.encAnswers := rfl
@[simp] theorem fdAdvance_out (x : Byte) (s : State) : (fdAdvance x s).out = s.out := rfl

/-! ### The fields after a pulse on the trace port -/

@[simp] theorem tracePulse_params (d : F64) (m : Bool) (s : State) : (tracePulse d m s).params = s.params := rfl
@[simp] theorem tracePulse_bank (d : F64) (m : Bool) (s : State) : (tracePulse d m s).bank = s.bank := rfl
@[simp] theorem tracePulse_fd (d : F64) (m : Bool) (s : State) : (tracePulse d m s).fd = s.fd := rfl
@[simp] theorem tracePulse_pc (d : F64) (m : Bool) (s : State) : (tracePulse d m s).pc = s.pc := rfl
@[simp] theorem tracePulse_dg (d : F64) (m : Bool) (s : State) : (tracePulse d m s).dg = s.dg := rfl
@[simp] theorem tracePulse_decTgt (d : F64) (m : Bool) (s : State) : (tracePulse d m s).decTgt = s.decTgt := rfl
@[simp] theorem tracePulse_rcd (d : F64) (m : Bool) (s : State) : (tracePulse d m s).rcd = s.rcd := rfl
@[simp] theorem tracePulse_csr (d : F64) (m : Bool) (s : State) : (tracePulse d m s).csr = s.csr := rfl
@[simp] theorem tracePulse_lastFault (d : F64) (m : Bool) (s : State) :
    (tracePulse d m s).lastFault = s.lastFault := rfl
@[simp] theorem tracePulse_lastCause (d : F64) (m : Bool) (s : State) :
    (tracePulse d m s).lastCause = s.lastCause := rfl
@[simp] theorem tracePulse_cmd (d : F64) (m : Bool) (s : State) : (tracePulse d m s).cmd = s.cmd := rfl
@[simp] theorem tracePulse_resetIn (d : F64) (m : Bool) (s : State) : (tracePulse d m s).resetIn = s.resetIn := rfl
@[simp] theorem tracePulse_decAnswers (d : F64) (m : Bool) (s : State) :
    (tracePulse d m s).decAnswers = s.decAnswers := rfl
@[simp] theorem tracePulse_encAnswers (d : F64) (m : Bool) (s : State) :
    (tracePulse d m s).encAnswers = s.encAnswers := rfl
@[simp] theorem tracePulse_out (d : F64) (m : Bool) (s : State) :
    (tracePulse d m s).out = s.out ++ [.pulse d m] := rfl

/-! ### The fields after reset -/

@[simp] theorem resetPpc_params (s : State) : (resetPpc s).params = s.params := rfl
@[simp] theorem resetPpc_bank (s : State) : (resetPpc s).bank = (State.resetWith s.params).bank := rfl
@[simp] theorem resetPpc_fd (s : State) : (resetPpc s).fd = (State.resetWith s.params).fd := rfl
@[simp] theorem resetPpc_pc (s : State) : (resetPpc s).pc = (State.resetWith s.params).pc := rfl
@[simp] theorem resetPpc_dg (s : State) : (resetPpc s).dg = (State.resetWith s.params).dg := rfl
@[simp] theorem resetPpc_decTgt (s : State) : (resetPpc s).decTgt = (State.resetWith s.params).decTgt := rfl
@[simp] theorem resetPpc_rcd (s : State) : (resetPpc s).rcd = (State.resetWith s.params).rcd := rfl
@[simp] theorem resetPpc_csr (s : State) : (resetPpc s).csr = (State.resetWith s.params).csr := rfl
@[simp] theorem resetPpc_lastFault (s : State) : (resetPpc s).lastFault = (State.resetWith s.params).lastFault := rfl
@[simp] theorem resetPpc_lastCause (s : State) : (resetPpc s).lastCause = (State.resetWith s.params).lastCause := rfl
@[simp] theorem resetPpc_cmd (s : State) : (resetPpc s).cmd = s.cmd := rfl
@[simp] theorem resetPpc_resetIn (s : State) : (resetPpc s).resetIn = s.resetIn := rfl
@[simp] theorem resetPpc_decAnswers (s : State) : (resetPpc s).decAnswers = s.decAnswers := rfl
@[simp] theorem resetPpc_encAnswers (s : State) : (resetPpc s).encAnswers = s.encAnswers := rfl
@[simp] theorem resetPpc_out (s : State) : (resetPpc s).out = s.out := rfl

end Sys2Proof.Machine
end

