-- ==== Sys2Proof/Laws/Ops.lean ====
section
/-! SUPPORT. For each shared operation, once, everything it can do: the fields of the state it can change and the
outputs it can make. Later proofs cite these and do not unfold the operations. -/

namespace Sys2Proof.Machine

/-- None of the outputs is a response. -/
abbrev NoResp (mid : List Output) : Prop := ∀ o ∈ mid, o.isResp = false

theorem NoResp.append {a b : List Output} (ha : NoResp a) (hb : NoResp b) : NoResp (a ++ b) := by
  intro o ho
  rcases List.mem_append.mp ho with h | h
  · exact ha o h
  · exact hb o h

/-! ### Index checks -/

theorem onBuf_cases (b : Byte) (s : State) (k : Buf → State) :
    (b.toNat < s.params.nbuf ∧ onBuf b s k = k (s.buf b.toNat)) ∨
      (s.params.nbuf ≤ b.toNat ∧ onBuf b s k = raiseArg .badIndex s) := by
  unfold onBuf; split
  · exact .inl ⟨‹_›, rfl⟩
  · exact .inr ⟨by omega, rfl⟩

theorem onSlot_cases (i : Byte) (s : State) (k : Nat → State) :
    (i.toNat < s.params.ndec ∧ onSlot i s k = k i.toNat) ∨
      (s.params.ndec ≤ i.toNat ∧ onSlot i s k = raiseArg .badIndex s) := by
  unfold onSlot; split
  · exact .inl ⟨‹_›, rfl⟩
  · exact .inr ⟨by omega, rfl⟩

theorem onSink_cases (k : Byte) (s : State) (g : Nat → State) :
    (k.toNat < s.params.nsink ∧ onSink k s g = g k.toNat) ∨
      (s.params.nsink ≤ k.toNat ∧ onSink k s g = raiseArg .badIndex s) := by
  unfold onSink; split
  · exact .inl ⟨‹_›, rfl⟩
  · exact .inr ⟨by omega, rfl⟩

/-! ### The BFB bank -/

/-- A written register reads back. -/
theorem buf_setBuf_same (s : State) (b : Nat) (r : Buf) (h : b < s.bank.length) : (s.setBuf b r).buf b = r := by
  simp [State.buf, List.getD_eq_getElem?_getD, h]

/-- A write leaves every other register alone. -/
theorem buf_setBuf_other (s : State) (b c : Nat) (r : Buf) (h : b ≠ c) : (s.setBuf b r).buf c = s.buf c := by
  simp [State.buf, List.getD_eq_getElem?_getD, h]

/-! ### Calls on the external agents -/

/-- 42_contracts.md R182: what delivering events changes, and in which order they go out. -/
theorem deliver_eq (i : Nat) (evs : List SinkEvent) (s : State) :
    deliver i evs s = { s with out := s.out ++ evs.map (.sink (s.decTgt.getD i 0)) } := by
  induction evs generalizing s with
  | nil => simp [deliver]
  | cons e r ih =>
    have : deliver i (e :: r) s = deliver i r (s.sinkEvent (s.decTgt.getD i 0) e) := rfl
    rw [this, ih]
    simp [State.sinkEvent, State.emit]

/-- Taking the first answer on a port leaves the rest of that port's list. -/
theorem getD_taken_same {α : Type} (l : List (List α)) (p : Nat) :
    (l.modify p List.tail).getD p [] = (l.getD p []).tail := by
  simp only [List.getD_eq_getElem?_getD, List.getElem?_modify_eq]
  cases l[p]? <;> rfl

/-- Taking the first answer on a port leaves every other port's list alone. -/
theorem getD_taken_other {α : Type} (l : List (List α)) {p j : Nat} (h : j ≠ p) :
    (l.modify p List.tail).getD j [] = l.getD j [] := by
  simp only [List.getD_eq_getElem?_getD, List.getElem?_modify_ne _ _ (Ne.symm h)]

/-- The call, then the answer's events; the first answer presented on the port is taken. -/
theorem callParse_eq (i : Nat) (d : F64) (m : Bool) (s : State) :
    callParse i d m s = ((s.decoder i [.parse d m]).code, { s with
      decAnswers := s.decAnswers.modify i List.tail
      out := s.out ++ .dec i (.parse d m) ::
        (s.decoder i [.parse d m]).evs.map (.sink (s.decTgt.getD i 0)) }) := by
  simp [callParse, deliver_eq, State.popDec, State.emit]

/-- A `parse` call on a port is the first of the calls that follow on that port. -/
theorem decCalls_callParse_same (i : Nat) (d : F64) (m : Bool) (s : State) :
    (callParse i d m s).2.decCalls i = s.decCalls i ++ [.parse d m] := by
  simp [callParse_eq, State.decCalls, List.filterMap_append]

/-- A `parse` call is no call on another port. -/
theorem decCalls_callParse_other (i j : Nat) (d : F64) (m : Bool) (s : State) (h : j ≠ i) :
    (callParse i d m s).2.decCalls j = s.decCalls j := by
  simp [callParse_eq, State.decCalls, List.filterMap_append, Ne.symm h]

/-- 42_contracts.md R185 (f): after a `parse` call its decoder answers as one that has had this call. -/
theorem decoder_callParse_same (i : Nat) (d : F64) (m : Bool) (s : State) (calls : List DecCall) (h : calls ≠ []) :
    (callParse i d m s).2.decoder i calls = s.decoder i (.parse d m :: calls) := by
  have q : (callParse i d m s).2.decAnswers.getD i [] = (s.decAnswers.getD i []).tail := by
    rw [callParse_eq]; exact getD_taken_same _ i
  rw [State.decoder, State.decoder, q, decCalls_callParse_same, List.dropLast_cons_of_ne_nil h]
  simp [List.countP_cons, isParse]

/-- 42_contracts.md R185 (f): a `parse` call on another port changes nothing for a decoder. -/
theorem decoder_callParse_other (i j : Nat) (d : F64) (m : Bool) (s : State) (h : j ≠ i) :
    (callParse i d m s).2.decoder j = s.decoder j := by
  funext calls
  have q : (callParse i d m s).2.decAnswers.getD j [] = s.decAnswers.getD j [] := by
    rw [callParse_eq]; exact getD_taken_other _ h
  rw [State.decoder, State.decoder, q, decCalls_callParse_other i j d m s h]

@[simp] theorem phaseBit_first : phaseBit .first = 0#1 := rfl
@[simp] theorem phaseBit_repeated : phaseBit .repeated = 1#1 := rfl

/-- An `encode` call: the answer and the call; the first answer presented on the port is taken. -/
theorem callEncode_eq (e : Nat) (msg : Message) (ph : Phase) (s : State) :
    callEncode e msg ph s = (s.encoder e [⟨msg, phaseBit ph⟩], { s with
      encAnswers := s.encAnswers.modify e List.tail, out := s.out ++ [.enc e ⟨msg, phaseBit ph⟩] }) := rfl

/-- An `encode` call on a port is the first of the calls that follow on that port. -/
theorem encCalls_callEncode_same (e : Nat) (msg : Message) (ph : Phase) (s : State) :
    (callEncode e msg ph s).2.encCalls e = s.encCalls e ++ [⟨msg, phaseBit ph⟩] := by
  simp [callEncode_eq, State.encCalls, List.filterMap_append]

/-- An `encode` call is no call on another port. -/
theorem encCalls_callEncode_other (e j : Nat) (msg : Message) (ph : Phase) (s : State) (h : j ≠ e) :
    (callEncode e msg ph s).2.encCalls j = s.encCalls j := by
  simp [callEncode_eq, State.encCalls, List.filterMap_append, Ne.symm h]

/-- 20_memory.md R82: after an `encode` call its encoder answers as one that has had this call. -/
theorem encoder_callEncode_same (e : Nat) (msg : Message) (ph : Phase) (s : State) (calls : List EncCall)
    (h : calls ≠ []) : (callEncode e msg ph s).2.encoder e calls = s.encoder e (⟨msg, phaseBit ph⟩ :: calls) := by
  have q : (callEncode e msg ph s).2.encAnswers.getD e [] = (s.encAnswers.getD e []).tail := getD_taken_same _ e
  rw [State.encoder, State.encoder, q, encCalls_callEncode_same, List.dropLast_cons_of_ne_nil h]
  simp

/-- 20_memory.md R82: an `encode` call on another port changes nothing for an encoder. -/
theorem encoder_callEncode_other (e j : Nat) (msg : Message) (ph : Phase) (s : State) (h : j ≠ e) :
    (callEncode e msg ph s).2.encoder j = s.encoder j := by
  funext calls
  have q : (callEncode e msg ph s).2.encAnswers.getD j [] = s.encAnswers.getD j [] := getD_taken_other _ h
  rw [State.encoder, State.encoder, q, encCalls_callEncode_other e j msg ph s h]

/-- What the `setTarget` calls of a list of slots change. -/
theorem settarget_frame (k : Nat) (l : List Nat) (s : State) :
    ∃ tgt, l.foldl (callSetTarget k) s =
      { s with decTgt := tgt, out := s.out ++ l.map fun i => .dec i (.setTarget k) } := by
  induction l generalizing s with
  | nil => exact ⟨s.decTgt, by simp⟩
  | cons i r ih =>
    obtain ⟨tgt, h⟩ := ih (callSetTarget k s i)
    exact ⟨tgt, by rw [List.foldl_cons, h]; simp [callSetTarget, State.emit]⟩

/-- 43_group.md R205: a pulse handed to the active decoders changes only what the ports show. -/
theorem dgParse_frame (d : F64) (m : Bool) (s : State) :
    ∃ ans mid, (dgParse d m s).2 = { s with decAnswers := ans, out := s.out ++ mid } ∧ NoResp mid := by
  suffices H : ∀ (l : List Nat) (c : BitVec 32) (t : State), ∃ ans mid,
      (l.foldl (parseStep d m) (c, t)).2 = { t with decAnswers := ans, out := t.out ++ mid } ∧ NoResp mid from
    H s.dg.active 0#32 s
  intro l
  induction l with
  | nil => exact fun c t => ⟨t.decAnswers, [], by simp, by simp [NoResp]⟩
  | cons i r ih =>
    intro c t
    obtain ⟨ans, mid, h2, hm⟩ := ih (callParse i d m t).1 (callParse i d m t).2
    refine ⟨ans, .dec i (.parse d m) ::
      (t.decoder i [.parse d m]).evs.map (.sink (t.decTgt.getD i 0)) ++ mid, ?_, ?_⟩
    · rw [List.foldl_cons, show parseStep d m (c, t) i = ((callParse i d m t).1, (callParse i d m t).2) from rfl, h2,
        callParse_eq]
      simp
    · refine NoResp.append ?_ hm
      intro o ho
      rcases List.mem_cons.mp ho with rfl | ho
      · rfl
      · obtain ⟨e, -, rfl⟩ := List.mem_map.mp ho; rfl

/-! ### RCD, PC and FD -/

/-- 46_rawcapture.md R281: the end of a message. -/
theorem endOfMessage_eq (s : State) :
    endOfMessage s = { s with
      rcd := { s.rcd with mode := .idle, free := false }
      out := s.out ++ [.sink s.rcd.target (.parsedMessage (.raw (s.rcd.message s.rcd.keep)))] } := rfl

/-- 46_rawcapture.md R273: a pulse changes RCD's state and can send one message. -/
theorem rcdParse_frame (d : F64) (m : Bool) (s : State) :
    ∃ r mid, rcdParse d m s = { s with rcd := r, out := s.out ++ mid } ∧ NoResp mid := by
  have same : ∃ r mid, s = { s with rcd := r, out := s.out ++ mid } ∧ NoResp mid :=
    ⟨s.rcd, [], by simp, by simp [NoResp]⟩
  have eom : ∃ r mid, endOfMessage s = { s with rcd := r, out := s.out ++ mid } ∧ NoResp mid :=
    ⟨_, _, endOfMessage_eq s, by simp [NoResp, Output.isResp]⟩
  unfold rcdParse
  split
  · split
    · exact ⟨_, [], by rw [List.append_nil]; rfl, by simp [NoResp]⟩
    · exact same
  · split
    · split
      · exact eom
      · exact ⟨_, [], by rw [List.append_nil]; rfl, by simp [NoResp]⟩
    · split
      · exact eom
      · exact same

/-- 46_rawcapture.md R280: the level and its report. -/
theorem level_frame (smp : Byte) (s : State) :
    ∃ lv ctr mid, levelReport (levelRise smp s) =
      { s with rcd := { s.rcd with level := lv, levelCtr := ctr }, out := s.out ++ mid } ∧ NoResp mid := by
  unfold levelReport
  split
  · exact ⟨_, _, _, rfl, by simp [NoResp, Output.isResp]⟩
  · exact ⟨_, _, [], by rw [List.append_nil]; rfl, by simp [NoResp]⟩

/-- 46_rawcapture.md R278: a sample changes RCD's state and can send a level report and a message. -/
theorem rcdSample_frame (smp : Byte) (s : State) :
    ∃ r mid, rcdSample smp s = { s with rcd := r, out := s.out ++ mid } ∧ NoResp mid := by
  obtain ⟨lv, ctr, mid, h, hm⟩ := level_frame smp s
  rw [rcdSample, h]
  unfold recordSample
  split
  · exact ⟨_, mid, rfl, hm⟩
  · dsimp only
    split
    · exact ⟨_, mid ++ _, by rw [endOfMessage_eq, ← List.append_assoc],
        hm.append (by simp [NoResp, Output.isResp])⟩
    · exact ⟨_, mid, rfl, hm⟩

/-- 45_classifier.md R252, R253, R254: a pulse changes only PC's state. -/
theorem pcAdd_frame (d : F64) (m : Bool) (s : State) : ∃ p, (pcAdd d m s).2 = { s with pc := p } := by
  unfold pcAdd pcAppend
  split
  · exact ⟨_, rfl⟩
  · split <;> exact ⟨_, rfl⟩

/-- 45_classifier.md R255: a primer pulse changes only PC's state. -/
theorem pcPrime_frame (d : F64) (m : Bool) (s : State) : ∃ p, (pcPrime d m s).2 = { s with pc := p } := by
  unfold pcPrime pcAppend
  split
  · exact ⟨s.pc, rfl⟩
  · split <;> exact ⟨_, rfl⟩

/-- 48_system.md R317: the fan-out of a pulse changes only RCD's and PC's state and what the ports show. -/
theorem emitPulse_frame (d : F64) (m : Bool) (s : State) :
    ∃ p r ans mid, emitPulse d m s =
      { s with pc := p, rcd := r, decAnswers := ans, out := s.out ++ mid } ∧ NoResp mid := by
  obtain ⟨ans, m1, h1, q1⟩ : ∃ ans mid, fanDg d m (tracePulse d m s) =
      { s with decAnswers := ans, out := s.out ++ mid } ∧ NoResp mid := by
    unfold fanDg
    split
    · obtain ⟨ans, mid, h, q⟩ := dgParse_frame d m (tracePulse d m s)
      refine ⟨ans, [.pulse d m] ++ mid, ?_, NoResp.append (by simp [NoResp, Output.isResp]) q⟩
      rw [h]; simp [tracePulse, State.emit]
    · exact ⟨_, [.pulse d m], rfl, by simp [NoResp, Output.isResp]⟩
  obtain ⟨r, m2, h2, q2⟩ : ∃ r mid, fanRcd d m (fanDg d m (tracePulse d m s)) =
      { s with rcd := r, decAnswers := ans, out := s.out ++ mid } ∧ NoResp mid := by
    rw [h1]
    unfold fanRcd
    split
    · obtain ⟨r, mid, h, q⟩ := rcdParse_frame d m { s with decAnswers := ans, out := s.out ++ m1 }
      exact ⟨r, m1 ++ mid, by rw [h]; simp, q1.append q⟩
    · exact ⟨s.rcd, m1, rfl, q1⟩
  rw [emitPulse, h2]
  unfold fanPc
  split
  · obtain ⟨p, h⟩ := pcAdd_frame d m { s with rcd := r, decAnswers := ans, out := s.out ++ m2 }
    exact ⟨p, r, ans, m2, h, q2⟩
  · exact ⟨s.pc, r, ans, m2, rfl, q2⟩

/-- 44_flank.md R221: a sample changes FD's state and, through the fan-out, RCD's and PC's. -/
theorem fdSample_frame (smp : Byte) (s : State) :
    ∃ f p r ans mid, fdSample smp s =
      { s with fd := f, pc := p, rcd := r, decAnswers := ans, out := s.out ++ mid } ∧ NoResp mid := by
  unfold fdSample
  split
  · rw [fdFlank]
    obtain ⟨p, r, ans, mid, h, q⟩ := emitPulse_frame
      (flankDuration (fdAdvance smp s) (fdAdvance smp s).fd.cnt (dirOf (fdDiff smp s) == .fall))
      (dirOf (fdDiff smp s) == .fall)
      { fdAdvance smp s with fd := { (fdAdvance smp s).fd with
          lastDir := dirOf (fdDiff smp s), cnt := 0, pushed := false } }
    exact ⟨_, p, r, ans, mid, h, q⟩
  · split
    · rw [fdPush]
      obtain ⟨p, r, ans, mid, h, q⟩ := emitPulse_frame (us (fdAdvance smp s) (fdAdvance smp s).fd.cnt) false
        { fdAdvance smp s with fd := { (fdAdvance smp s).fd with cnt := 0, pushed := true } }
      rw [h]
      obtain ⟨p2, r2, ans2, mid2, h2, q2⟩ := emitPulse_frame f64Zero true
        { fdAdvance smp s with
          fd := { (fdAdvance smp s).fd with cnt := 0, pushed := true }
          pc := p, rcd := r, decAnswers := ans, out := s.out ++ mid }
      exact ⟨_, p2, r2, ans2, mid ++ mid2, by rw [← List.append_assoc]; exact h2, q.append q2⟩
    · exact ⟨_, s.pc, s.rcd, s.decAnswers, [], by rw [List.append_nil]; rfl, by simp [NoResp]⟩

/-- 46_rawcapture.md R273: a pulse leaves RCD's rate, level, interval counter and target alone. -/
theorem rcdParse_keeps (d : F64) (m : Bool) (s : State) :
    (rcdParse d m s).rcd.rate = s.rcd.rate ∧ (rcdParse d m s).rcd.level = s.rcd.level ∧
      (rcdParse d m s).rcd.levelCtr = s.rcd.levelCtr ∧ (rcdParse d m s).rcd.target = s.rcd.target := by
  unfold rcdParse
  repeat' split
  all_goals exact ⟨rfl, rfl, rfl, rfl⟩

/-- 48_system.md R317: what the fan-out leaves alone in RCD. -/
theorem emitPulse_keeps (d : F64) (m : Bool) (s : State) :
    (emitPulse d m s).rcd.rate = s.rcd.rate ∧ (emitPulse d m s).rcd.level = s.rcd.level ∧
      (emitPulse d m s).rcd.levelCtr = s.rcd.levelCtr ∧ (emitPulse d m s).rcd.target = s.rcd.target := by
  have hp : ∀ t : State, (fanPc d m t).rcd = t.rcd := by
    intro t
    unfold fanPc
    split
    · obtain ⟨p, h⟩ := pcAdd_frame d m t; rw [h]
    · rfl
  have hd : (fanDg d m (tracePulse d m s)).rcd = s.rcd := by
    unfold fanDg
    split
    · obtain ⟨ans, mid, h, -⟩ := dgParse_frame d m (tracePulse d m s); rw [h]; rfl
    · rfl
  rw [emitPulse, hp]
  unfold fanRcd
  split
  · have := rcdParse_keeps d m (fanDg d m (tracePulse d m s))
    rwa [hd] at this
  · rw [hd]; exact ⟨rfl, rfl, rfl, rfl⟩

/-- 44_flank.md R221: what a sample handed to FD leaves alone in RCD. -/
theorem fdSample_keeps (smp : Byte) (s : State) :
    (fdSample smp s).rcd.rate = s.rcd.rate ∧ (fdSample smp s).rcd.level = s.rcd.level ∧
      (fdSample smp s).rcd.levelCtr = s.rcd.levelCtr ∧ (fdSample smp s).rcd.target = s.rcd.target := by
  unfold fdSample
  split
  · exact emitPulse_keeps _ _ _
  · split
    · obtain ⟨a1, a2, a3, a4⟩ := emitPulse_keeps f64Zero true
        (emitPulse (us (fdAdvance smp s) (fdAdvance smp s).fd.cnt) false
          { fdAdvance smp s with fd := { (fdAdvance smp s).fd with cnt := 0, pushed := true } })
      obtain ⟨b1, b2, b3, b4⟩ := emitPulse_keeps (us (fdAdvance smp s) (fdAdvance smp s).fd.cnt) false
        { fdAdvance smp s with fd := { (fdAdvance smp s).fd with cnt := 0, pushed := true } }
      exact ⟨a1.trans b1, a2.trans b2, a3.trans b3, a4.trans b4⟩
    · exact ⟨rfl, rfl, rfl, rfl⟩

end Sys2Proof.Machine
end

