-- ==== Sys2Proof/Laws/PerInstr.lean ====
section
/-! SUPPORT. A statement made per instruction: a command's first transfer is a command word that selects a row of the
opcode map (30_encoding.md R106, R111). -/

namespace Sys2Proof.Laws

/-- The transfers of a command begin with a legal command word. -/
def Headed.Statement (i : Instr) : Prop :=
  ∃ (c : CmdWord) (rest : List PortItem), encode i = .word (cmdWord c) :: rest ∧ (decodeHead c).isSome = true

theorem Headed.nop : Headed.Statement (.nop) :=
  ⟨_, _, rfl, rfl⟩

theorem Headed.csrRd (n : Byte) : Headed.Statement (.csrRd n) :=
  ⟨_, _, rfl, rfl⟩

theorem Headed.csrWr (n : Byte) (a : Word64) : Headed.Statement (.csrWr n a) :=
  ⟨_, _, rfl, rfl⟩

theorem Headed.sysReset : Headed.Statement (.sysReset) :=
  ⟨_, _, rfl, rfl⟩

theorem Headed.topSample (smp : Byte) : Headed.Statement (.topSample smp) :=
  ⟨_, _, rfl, rfl⟩

theorem Headed.topSetrate (a : Word64) : Headed.Statement (.topSetrate a) :=
  ⟨_, _, rfl, rfl⟩

theorem Headed.bfbNew (b : Byte) (a : Word64) : Headed.Statement (.bfbNew b a) :=
  ⟨_, _, rfl, rfl⟩

theorem Headed.bfbNewv (b : Byte) (a v : Word64) : Headed.Statement (.bfbNewv b a v) :=
  ⟨_, _, rfl, rfl⟩

theorem Headed.bfbClear (b : Byte) : Headed.Statement (.bfbClear b) :=
  ⟨_, _, rfl, rfl⟩

theorem Headed.bfbLen (b : Byte) : Headed.Statement (.bfbLen b) :=
  ⟨_, _, rfl, rfl⟩

theorem Headed.bfbGetbit (b : Byte) (a : Word64) : Headed.Statement (.bfbGetbit b a) :=
  ⟨_, _, rfl, rfl⟩

theorem Headed.bfbSetbit (b : Byte) (a : Word64) (f : Bool) : Headed.Statement (.bfbSetbit b a f) :=
  ⟨_, _, rfl, by cases f <;> simp [decodeHead, bySelFlag, onlyIf, flagByte]⟩

theorem Headed.bfbAddmsb (b : Byte) (f : Bool) : Headed.Statement (.bfbAddmsb b f) :=
  ⟨_, _, rfl, by cases f <;> simp [decodeHead, bySelFlag, onlyIf, flagByte]⟩

theorem Headed.bfbAddlsb (b : Byte) (f : Bool) : Headed.Statement (.bfbAddlsb b f) :=
  ⟨_, _, rfl, by cases f <;> simp [decodeHead, bySelFlag, onlyIf, flagByte]⟩

theorem Headed.bfbInsert (b : Byte) (a l v : Word64) : Headed.Statement (.bfbInsert b a l v) :=
  ⟨_, _, rfl, rfl⟩

theorem Headed.bfbExtu (b : Byte) (a l : Word64) : Headed.Statement (.bfbExtu b a l) :=
  ⟨_, _, rfl, rfl⟩

theorem Headed.bfbExts (b : Byte) (a l : Word64) : Headed.Statement (.bfbExts b a l) :=
  ⟨_, _, rfl, rfl⟩

theorem Headed.bfbShr (b : Byte) (a : Word64) : Headed.Statement (.bfbShr b a) :=
  ⟨_, _, rfl, rfl⟩

theorem Headed.bfbTobytes (b : Byte) : Headed.Statement (.bfbTobytes b) :=
  ⟨_, _, rfl, rfl⟩

theorem Headed.bfbEq (b b2 : Byte) : Headed.Statement (.bfbEq b b2) :=
  ⟨_, _, rfl, rfl⟩

theorem Headed.bfbHash (b : Byte) : Headed.Statement (.bfbHash b) :=
  ⟨_, _, rfl, rfl⟩

theorem Headed.fdSample (smp : Byte) : Headed.Statement (.fdSample smp) :=
  ⟨_, _, rfl, rfl⟩

theorem Headed.fdSetrate (a : Word64) : Headed.Statement (.fdSetrate a) :=
  ⟨_, _, rfl, rfl⟩

theorem Headed.pcAdd (d : F64) (f : Bool) : Headed.Statement (.pcAdd d f) :=
  ⟨_, _, rfl, by cases f <;> simp [decodeHead, byFlag, onlyIf, flagByte]⟩

theorem Headed.pcPrime (d : F64) (f : Bool) : Headed.Statement (.pcPrime d f) :=
  ⟨_, _, rfl, by cases f <;> simp [decodeHead, byFlag, onlyIf, flagByte]⟩

theorem Headed.pcGet : Headed.Statement (.pcGet) :=
  ⟨_, _, rfl, rfl⟩

theorem Headed.pcReset : Headed.Statement (.pcReset) :=
  ⟨_, _, rfl, rfl⟩

theorem Headed.dgParse (d : F64) (f : Bool) : Headed.Statement (.dgParse d f) :=
  ⟨_, _, rfl, by cases f <;> simp [decodeHead, byFlag, onlyIf, flagByte]⟩

theorem Headed.dgAdd (i : Byte) : Headed.Statement (.dgAdd i) :=
  ⟨_, _, rfl, rfl⟩

theorem Headed.dgRemove (i : Byte) : Headed.Statement (.dgRemove i) :=
  ⟨_, _, rfl, rfl⟩

theorem Headed.dgSetactive (i : Byte) (f : Bool) : Headed.Statement (.dgSetactive i f) :=
  ⟨_, _, rfl, by cases f <;> simp [decodeHead, bySelFlag, onlyIf, flagByte]⟩

theorem Headed.dgSettarget (k : Byte) : Headed.Statement (.dgSettarget k) :=
  ⟨_, _, rfl, rfl⟩

theorem Headed.rcdParse (d : F64) (f : Bool) : Headed.Statement (.rcdParse d f) :=
  ⟨_, _, rfl, by cases f <;> simp [decodeHead, byFlag, onlyIf, flagByte]⟩

theorem Headed.rcdAddsample (smp : Byte) : Headed.Statement (.rcdAddsample smp) :=
  ⟨_, _, rfl, rfl⟩

theorem Headed.rcdSetrate (a : Word64) : Headed.Statement (.rcdSetrate a) :=
  ⟨_, _, rfl, rfl⟩

theorem Headed.rcdSettarget (k : Byte) : Headed.Statement (.rcdSettarget k) :=
  ⟨_, _, rfl, rfl⟩

theorem Headed.rcdStartfree (a : Word64) : Headed.Statement (.rcdStartfree a) :=
  ⟨_, _, rfl, rfl⟩

theorem Headed.rcdGetinfo : Headed.Statement (.rcdGetinfo) :=
  ⟨_, _, rfl, rfl⟩

theorem Headed.mrRepeat (e : Byte) (n : Word64) (msg : Message) : Headed.Statement (.mrRepeat e n msg) :=
  ⟨_, _, rfl, rfl⟩

end Sys2Proof.Laws
end

