-- ==== Sys2Proof/Tests/Slice0.lean ====
section
/-! SUPPORT. Tests of one step each, with the results 95_test_vectors.md and 96_test_vectors_units.md give (their groups
are named at each test), and a witness for every statement that has hypotheses. -/

namespace Sys2Proof.Tests

open Sys2Proof Sys2Proof.Machine

/-- The default parameters with `SXT_MODE` = compat. -/
def prm : Params := ⟨4, 16, 8, 4, 1, 32, 1048576, 4096, 65536, .compat⟩

/-- The reset state with these parameters. -/
def s0 : State := State.resetWith prm

/-- The state after a command, the state before it where it does not answer one. -/
def run (i : Instr) (s : State) : State :=
  match exec i s with
  | .next t => t
  | .fault _ => s
  | .refused _ => s

/-- The last output, if it is a response. -/
def resp (s : State) : Option Response :=
  match s.out.getLast? with
  | some (.resp r) => some r
  | _ => none

/-- A response without a payload. -/
def plainResp (st : Status) (c : Cause) (v : Word64) : Option Response := some ⟨st, c, v, []⟩

/-- `B[0]` holds a value. -/
def buf0 (len : Nat) (bits : Word64) : State := s0.setBuf 0 ⟨len, bits⟩

/-- A group table, tolerance 0.1. -/
def groups (gs : List Group) : State := { s0 with pc := ⟨gs, false⟩ }

/-- A table of one place. -/
def small (s : State) : State := { s with params := { prm with pcNgroups := 1 } }

/-- A state with an FD history and its other fields, rate 10000. -/
def fd (hist : List Byte) (cnt : Nat) (pushed : Bool) : State :=
  { s0 with fd := ⟨hist, cnt, .flat, pushed, 10000⟩, csr := { Csr.reset with route := 0x18#64 } }

/-- A state with RCD's fields: mode, free, samples, pulses, budget, level counter; rate 1000. -/
def rcd (m : RcdMode) (free : Bool) (smps : List Byte) (ps : List RcdPulse) (budget ctr : Nat) : State :=
  { s0 with rcd := ⟨m, free, smps, ps, budget, 1000, 0, ctr, 0⟩ }

/-- Answers presented on encoder port e, none on another. -/
def enc (e : Nat) (l : List EncAnswer) : State := { s0 with encAnswers := s0.encAnswers.set e l }

/-- 1.0. -/
def one : F64 := 0x3FF0000000000000#64

/-- 10.0. -/
def ten : F64 := 0x4024000000000000#64

/-- 500.0. -/
def d500 : F64 := 0x407F400000000000#64

/-- A mark group of one pulse of 500.0. -/
def g500 : Group := ⟨true, false, 0#64, d500, 1, d500, d500⟩

/-- A mark primer group of centre 500.0 (C1). -/
def p500 : Group := ⟨true, true, d500, 0#64, 0, d500, d500⟩

/-! ### Well-formedness -/

/-- 40_message_model.md R131: the checks refuse an empty name, both payloads, and neither payload. -/
theorem test_wf_ill_formed :
    FieldRecord.wf ⟨[], some 5#64, none⟩ = false ∧ FieldRecord.wf ⟨['a'], some 5#64, some []⟩ = false ∧
    FieldRecord.wf ⟨['a'], none, none⟩ = false ∧ messageRecordWf [⟨['a'], some 5#64, none⟩, ⟨[], none, some []⟩] = false := by
  decide

/-- A name and one payload pass them; so does an empty message (R134). -/
theorem test_wf_well_formed :
    messageRecordWf [⟨['a'], some 5#64, none⟩, ⟨['a'], none, some []⟩] = true ∧ messageRecordWf [] = true := by decide

/-- The decoder makes the message of a well-formed record. -/
theorem test_decode_message :
    decode [.word 0x60000000#32, .word 1#32, .word 0#32, .message [⟨['a', 'b'], some 5#64, none⟩]]
      = .command (.mrRepeat 0#8 1#64 [⟨⟨'a', ['b']⟩, .int 5#64⟩]) [] := by decide

/-- The decoder refuses ill-formed records by name. -/
theorem test_decode_ill_formed :
    decode [.word 0x60000000#32, .word 1#32, .word 0#32, .message [⟨[], some 5#64, none⟩]] = .illFormedMessage ∧
    decode [.word 0x60000000#32, .word 1#32, .word 0#32, .message [⟨['a'], none, none⟩]] = .illFormedMessage := by decide

/-- A record where a command word is due. -/
theorem test_decode_stray : decode [.message []] = .strayMessage := by decide

/-! ### Decoding, words written out from 30_encoding.md R110 (the vectors' words where they give one) -/

/-- The unit SYS. -/
theorem test_decode_sys :
    decodeTableWord 32 0x00000000 = some .nop ∧
    decodeTableWord 32 0x01210000 = some (.csrRd 0x21#8) ∧
    decode [.word 0x02100000#32, .word 0x00000010#32, .word 0#32] = .command (.csrWr 0x10#8 16#64) [] ∧
    decodeTableWord 32 0x03000000 = some .sysReset ∧
    decodeTableWord 32 0x040000FF = some (.topSample 255#8) ∧
    decode [.word 0x05000000#32, .word 0x0000AC44#32, .word 0#32] = .command (.topSetrate 44100#64) [] := by decide

/-- The unit BFB, first half. -/
theorem test_decode_bfb1 :
    decode [.word 0x10000000#32, .word 0x32#32, .word 0#32] = .command (.bfbNew 0#8 50#64) [] ∧
    decode [.word 0x11010000#32, .word 0x10#32, .word 0#32, .word 0xBEEF#32, .word 0#32]
      = .command (.bfbNewv 1#8 16#64 0xBEEF#64) [] ∧
    decodeTableWord 32 0x12030000 = some (.bfbClear 3#8) ∧
    decodeTableWord 32 0x13000000 = some (.bfbLen 0#8) ∧
    decode [.word 0x14000000#32, .word 0xFFFFFFFF#32, .word 0xFFFFFFFF#32]
      = .command (.bfbGetbit 0#8 0xFFFFFFFFFFFFFFFF#64) [] ∧
    decode [.word 0x15000001#32, .word 3#32, .word 0#32] = .command (.bfbSetbit 0#8 3#64 true) [] ∧
    decodeTableWord 32 0x16000001 = some (.bfbAddmsb 0#8 true) ∧
    decodeTableWord 32 0x17000000 = some (.bfbAddlsb 0#8 false) := by decide

/-- The unit BFB, second half. -/
theorem test_decode_bfb2 :
    decode [.word 0x18000000#32, .word 0x2D#32, .word 0#32, .word 5#32, .word 0#32, .word 7#32, .word 0#32]
      = .command (.bfbInsert 0#8 45#64 5#64 7#64) [] ∧
    decode [.word 0x19000000#32, .word 0x28#32, .word 0#32, .word 0xA#32, .word 0#32]
      = .command (.bfbExtu 0#8 40#64 10#64) [] ∧
    decode [.word 0x1A010000#32, .word 0x2D#32, .word 0#32, .word 5#32, .word 0#32]
      = .command (.bfbExts 1#8 45#64 5#64) [] ∧
    decode [.word 0x1B000000#32, .word 3#32, .word 0#32] = .command (.bfbShr 0#8 3#64) [] ∧
    decodeTableWord 32 0x1C000000 = some (.bfbTobytes 0#8) ∧
    decodeTableWord 32 0x1D000100 = some (.bfbEq 0#8 1#8) ∧
    decodeTableWord 32 0x1E000000 = some (.bfbHash 0#8) := by decide

/-- The units FD and PC. -/
theorem test_decode_fd_pc :
    decodeTableWord 32 0x200000C8 = some (.fdSample 200#8) ∧
    decode [.word 0x21000000#32, .word 0x2710#32, .word 0#32] = .command (.fdSetrate 10000#64) [] ∧
    decode [.word 0x30000001#32, .word 0x00000000#32, .word 0x407F4000#32] = .command (.pcAdd d500 true) [] ∧
    decode [.word 0x31000000#32, .word 0x00000000#32, .word 0x40080000#32]
      = .command (.pcPrime 0x4008000000000000#64 false) [] ∧
    decodeTableWord 32 0x32000000 = some .pcGet ∧
    decodeTableWord 32 0x33000000 = some .pcReset := by decide

/-- The units DG, RCD and MR. -/
theorem test_decode_dg_rcd_mr :
    decode [.word 0x40000001#32, .word 0x00000000#32, .word 0x407F4000#32] = .command (.dgParse d500 true) [] ∧
    decodeTableWord 32 0x41020000 = some (.dgAdd 2#8) ∧
    decodeTableWord 32 0x42FF0000 = some (.dgRemove 255#8) ∧
    decodeTableWord 32 0x43020001 = some (.dgSetactive 2#8 true) ∧
    decodeTableWord 32 0x44000100 = some (.dgSettarget 1#8) ∧
    decode [.word 0x50000000#32, .word 0x00000000#32, .word 0x40B38800#32]
      = .command (.rcdParse 0x40B3880000000000#64 false) [] ∧
    decodeTableWord 32 0x51000080 = some (.rcdAddsample 128#8) ∧
    decode [.word 0x52000000#32, .word 0x3E8#32, .word 0#32] = .command (.rcdSetrate 1000#64) [] ∧
    decodeTableWord 32 0x53000100 = some (.rcdSettarget 1#8) ∧
    decode [.word 0x54000000#32, .word 6#32, .word 0#32] = .command (.rcdStartfree 6#64) [] ∧
    decodeTableWord 32 0x55000000 = some .rcdGetinfo ∧
    decode [.word 0x60010000#32, .word 2#32, .word 0#32, .message []] = .command (.mrRepeat 1#8 2#64 []) [] := by decide

/-- 96_test_vectors_units.md section 2.8: the illegal words listed there. -/
theorem test_decode_illegal :
    ∀ w ∈ [0x70000000, 0xF0000000, 0xFFFFFFFF, 0x06000000, 0x0F000000, 0x1F000000, 0x22000000, 0x34000000, 0x45000000,
      0x56000000, 0x61000000, 0x00000001, 0x03000001, 0x15000002, 0x12000100, 0x32000001, 0x04000100, 0x01001000,
      0x44010000, 0x30000002], decodeTableWord 32 w = none := by decide

/-! ### SYS and the CSR file (2.7) -/

theorem test_nop : run .nop s0 = { s0 with out := [.resp ⟨.ok, .none, 0#64, []⟩] } := by decide

/-- 2.8: after `InvalidArgument(BadLength)` the STATUS word is 0x020100. -/
theorem test_csrrd_status : resp (run (.csrRd 0#8) (raiseArg .badLength s0)) = plainResp .ok .none 0x020100#64 := by
  decide

theorem test_csrrd_push_samples :
    resp (run (.csrRd 0x17#8) { s0 with fd := { s0.fd with rate := 44100 } }) = plainResp .ok .none 8820#64 := by decide

theorem test_csrwr_flank_length :
    (run (.csrWr 0x10#8 16#64) s0).csr.fdFlankLength = 16#64 ∧
    resp (run (.csrWr 0x10#8 17#64) s0) = plainResp .invalidArgument .badConfig 0#64 := by decide

/-- -0.0 is stored as written, +inf is refused. -/
theorem test_csrwr_tolerance :
    (run (.csrWr 0x20#8 0x8000000000000000#64) s0).csr.pcTolerance = 0x8000000000000000#64 ∧
    resp (run (.csrWr 0x20#8 0x7FF0000000000000#64) s0) = plainResp .invalidArgument .badConfig 0#64 := by
  decide +kernel

theorem test_sysreset :
    (run .sysReset (raiseArg .badConfig (buf0 8 0x41#64))).buf 0 = ⟨0, 0#64⟩ ∧
    statusWord (run .sysReset (raiseArg .badConfig s0)) = 0#64 := by decide

theorem test_topsample_needs_rate :
    resp (run (.topSample 0#8) s0) = plainResp .invalidArgument .rateNotSet 0#64 := by decide

theorem test_topsample_feeds_both :
    let t := run (.topSample 0#8) { s0 with fd := { s0.fd with rate := 44100 }, rcd := { s0.rcd with rate := 44100 } }
    t.fd.cnt = 1 ∧ t.rcd.levelCtr = 1 ∧ t.rcd.level = 128 := by decide

theorem test_topsetrate :
    (run (.topSetrate 44100#64) s0).fd.rate = 44100 ∧ (run (.topSetrate 44100#64) s0).rcd.rate = 44100 ∧
    resp (run (.topSetrate 0#64) s0) = plainResp .invalidArgument .badConfig 0#64 := by decide

/-! ### BFB (V1 to V5, T1 to T9) -/

theorem test_new : (run (.bfbNew 0#8 64#64) (buf0 0 0#64)).buf 0 = ⟨64, 0#64⟩ := by decide

theorem test_new_bad :
    resp (run (.bfbNew 0#8 0xFFFFFFFFFFFFFFFF#64) s0) = plainResp .invalidArgument .badLength 0#64 ∧
    resp (run (.bfbNew 4#8 65#64) s0) = plainResp .invalidArgument .badIndex 0#64 := by decide

theorem test_newv : (run (.bfbNewv 0#8 8#64 0x1FF#64) s0).buf 0 = ⟨8, 0xFF#64⟩ := by decide

theorem test_clear : (run (.bfbClear 0#8) (buf0 8 0x41#64)).buf 0 = ⟨0, 0#64⟩ := by decide

theorem test_len : resp (run (.bfbLen 0#8) (buf0 10 0xA0#64)) = plainResp .ok .none 10#64 := by decide

theorem test_getbit : resp (run (.bfbGetbit 0#8 6#64) (buf0 8 0x41#64)) = plainResp .ok .none 1#64 := by decide

/-- T2: writing 0 above the length grows it. -/
theorem test_setbit_grows : (run (.bfbSetbit 0#8 9#64 false) (buf0 8 0x48#64)).buf 0 = ⟨10, 0x48#64⟩ := by decide

theorem test_setbit : (run (.bfbSetbit 0#8 63#64 true) (buf0 10 0x48#64)).buf 0 = ⟨64, 0x8000000000000048#64⟩ := by
  decide

theorem test_addmsb : (run (.bfbAddmsb 0#8 true) (buf0 2 1#64)).buf 0 = ⟨3, 5#64⟩ := by decide

theorem test_addmsb_full :
    resp (run (.bfbAddmsb 0#8 false) (buf0 64 0xC000000000000000#64)) = plainResp .rangeError .full 0#64 := by decide

theorem test_addlsb : (run (.bfbAddlsb 0#8 true) (buf0 3 5#64)).buf 0 = ⟨4, 0xB#64⟩ := by decide

theorem test_insert : (run (.bfbInsert 0#8 4#64 4#64 0x35#64) (buf0 16 0xFFFF#64)).buf 0 = ⟨16, 0xFF5F#64⟩ := by decide

theorem test_insert_bad :
    resp (run (.bfbInsert 0#8 0x7FFFFFFFFFFFFFFF#64 1#64 1#64) s0) = plainResp .invalidArgument .badField 0#64 := by
  decide

theorem test_extu : resp (run (.bfbExtu 0#8 4#64 8#64) (buf0 16 0xABCD#64)) = plainResp .ok .none 188#64 := by decide

theorem test_exts_compat :
    resp (run (.bfbExts 0#8 45#64 5#64) (buf0 50 0x2A00000000000#64)) = plainResp .ok .none 21#64 := by decide

theorem test_exts_signext :
    resp (run (.bfbExts 0#8 45#64 5#64) { buf0 50 0x2A00000000000#64 with params := { prm with sxtMode := .signext } })
      = plainResp .ok .none 0xFFFFFFFFFFFFFFF5#64 := by decide

/-- T6: the response is bit 0 before the shift, whatever the distance. -/
theorem test_shr :
    (run (.bfbShr 0#8 9#64) (buf0 8 0x41#64)).buf 0 = ⟨0, 0#64⟩ ∧
    resp (run (.bfbShr 0#8 9#64) (buf0 8 0x41#64)) = plainResp .ok .none 1#64 := by decide

theorem test_tobytes :
    resp (run (.bfbTobytes 0#8) (buf0 9 0x1FF#64)) = some ⟨.ok, .none, 2#64, [.byte 0xFF#8, .byte 0x01#8]⟩ := by decide

theorem test_tobytes_57 :
    resp (run (.bfbTobytes 0#8) (buf0 57 0x123456789ABCD#64)) = plainResp .invalidArgument .badField 0#64 := by decide

theorem test_eq :
    resp (run (.bfbEq 0#8 1#8) ((buf0 8 0x41#64).setBuf 1 ⟨9, 0x41#64⟩)) = plainResp .ok .none 0#64 ∧
    resp (run (.bfbEq 0#8 1#8) ((buf0 8 0x41#64).setBuf 1 ⟨8, 0x41#64⟩)) = plainResp .ok .none 1#64 := by decide

theorem test_hash :
    resp (run (.bfbHash 0#8) ((buf0 8 0x41#64).setBuf 1 ⟨8, 0x41#64⟩))
      = resp (run (.bfbHash 1#8) ((buf0 8 0x41#64).setBuf 1 ⟨8, 0x41#64⟩)) := rfl

/-! ### FD (F2, F15, F16, F21; the tests are of the last sample) -/

/-- F9: a flank after six samples reports 600.0 less the compensation 30.0, as a space. -/
theorem test_fdsample_flank :
    let s := fd (List.replicate 16 0#8) 5 false
    (run (.fdSample 200#8) { s with csr := { s.csr with fdPwcUs := 0x403E000000000000#64 } }).out
      = [.pulse 0x4081D00000000000#64 false, .resp ⟨.ok, .none, 0#64, []⟩] := by decide +kernel

/-- F15 at a rate of 10000: the 2000th sample without a flank is the watchdog's, 200000.0 and 0.0. -/
theorem test_fdsample_push :
    (run (.fdSample 0#8) (fd (List.replicate 16 0#8) 1999 false)).out
      = [.pulse 0x41086A0000000000#64 false, .pulse 0#64 true, .resp ⟨.ok, .none, 0#64, []⟩] := by decide +kernel

theorem test_fdsetrate :
    (run (.fdSetrate 2147483647#64) s0).fd.rate = 2147483647 ∧
    resp (run (.fdSetrate 2147483648#64) s0) = plainResp .invalidArgument .badConfig 0#64 := by decide

/-- 2.2: at 44100 Hz one sample lasts 22.675736961451246. -/
theorem test_us : us { s0 with fd := { s0.fd with rate := 44100 } } 1 = 0x4036ACFD18F621AB#64 := by decide +kernel

/-! ### PC (C1 to C3) -/

/-- C1: the first pulse accepted by a primer group is its minimum and maximum. -/
theorem test_pcadd_primer :
    (run (.pcAdd 0x4080E00000000000#64 true) (groups [p500])).pc.groups
      = [⟨true, true, d500, 0x4080E00000000000#64, 1, 0x4080E00000000000#64, 0x4080E00000000000#64⟩] := by
  decide +kernel

/-- C2: 1100.0 is outside the tolerance of 1000.0. -/
theorem test_pcadd_edge :
    resp (run (.pcAdd 0x4091300000000000#64 true)
      (groups [⟨true, false, 0#64, 0x408F400000000000#64, 1, 0x408F400000000000#64, 0x408F400000000000#64⟩]))
      = plainResp .ok .none 1#64 := by decide +kernel

/-- C1: 520.0 confirms the primer of 500.0, 600.0 does not. -/
theorem test_pcprime :
    (run (.pcPrime 0x4080400000000000#64 true) (groups [p500])).pc = ⟨[p500], false⟩ ∧
    resp (run (.pcPrime 0x4082C00000000000#64 true) (groups [p500])) = plainResp .ok .none 1#64 := by decide +kernel

/-- C1: by descending count, the primer group of count 0 left out. -/
theorem test_pcget :
    resp (run .pcGet (groups [⟨false, false, 0#64, d500, 1, d500, d500⟩, p500,
      ⟨true, true, d500, 0x4091300000000000#64, 2, 0x4080E00000000000#64, 0x4081800000000000#64⟩]))
      = some ⟨.ok, .none, 2#64, [
        .group ⟨true, 2, 0x4081300000000000#64, 0x4080E00000000000#64, 0x4081800000000000#64, 0x4091300000000000#64⟩,
        .group ⟨false, 1, d500, d500, d500, d500⟩]⟩ := by decide +kernel

theorem test_pcreset : (run .pcReset { groups [g500] with pc := ⟨[g500], true⟩ }).pc = ⟨[], false⟩ := by decide

/-! ### DG (2.4) -/

/-- V7: the passive decoder is not called, the value is the code of the last one called. -/
theorem test_dgparse :
    (run (.dgParse d500 true) { s0 with dg := ⟨[0, 1], [2]⟩, decAnswers := [[⟨3#32, []⟩], [⟨5#32, []⟩]] }).out
      = [.dec 0 (.parse d500 true), .dec 1 (.parse d500 true), .resp ⟨.ok, .none, 5#64, []⟩] := by decide

/-- The fan-in of 2.4: an event reaches its sink before the next decoder is called. -/
theorem test_dgparse_fan_in :
    (run (.dgParse d500 true) { s0 with
      dg := ⟨[0, 2], []⟩, decAnswers := [[⟨4#32, [.partiallyParsed ['X'] 3]⟩], [], [⟨0#32, []⟩]] }).out
      = [.dec 0 (.parse d500 true), .sink 0 (.partiallyParsed ['X'] 3), .dec 2 (.parse d500 true),
        .resp ⟨.ok, .none, 0#64, []⟩] := by decide

theorem test_dgadd :
    (run (.dgAdd 0#8) { s0 with dg := ⟨[2], []⟩ }).dg = ⟨[2, 0], []⟩ ∧
    resp (run (.dgAdd 5#8) { s0 with dg := ⟨[2, 0], [5]⟩ }) = plainResp .ok .none 0#64 := by decide

theorem test_dgremove : (run (.dgRemove 0#8) { s0 with dg := ⟨[1, 2], [0]⟩ }).dg = ⟨[1, 2], []⟩ := by decide

theorem test_dgsetactive :
    (run (.dgSetactive 2#8 false) { s0 with dg := ⟨[2, 0], [5]⟩ }).dg = ⟨[0], [5, 2]⟩ ∧
    (run (.dgSetactive 2#8 true) { s0 with dg := ⟨[2, 0], [5]⟩ }).dg = ⟨[2, 0], [5]⟩ := by decide

theorem test_dgsettarget :
    (run (.dgSettarget 0#8) { s0 with dg := ⟨[0, 2], [5]⟩ }).out
      = [.dec 0 (.setTarget 0), .dec 2 (.setTarget 0), .dec 5 (.setTarget 0), .resp ⟨.ok, .none, 0#64, []⟩] ∧
    resp (run (.dgSettarget 1#8) s0) = plainResp .invalidArgument .badIndex 0#64 := by decide

/-! ### RCD (R1 to R6) -/

/-- R1: 199999.99 starts a capture, 200000.0 does not. -/
theorem test_rcdparse_start :
    (run (.rcdParse 0x410869FFEB851EB8#64 false) s0).rcd.mode = .capturing ∧
    (run (.rcdParse 0x41086A0000000000#64 false) s0).rcd.mode = .idle := by decide +kernel

/-- R2: a gap of 29000.0 after two pulses ends the message, and the samples of the gap are trimmed (R3). -/
theorem test_rcdparse_gap :
    (run (.rcdParse 0x40DC520000000000#64 false)
      (rcd .capturing false [1#8, 2#8, 3#8] [⟨0, d500⟩, ⟨2, d500⟩] 800 0)).out
      = [.sink 0 (.parsedMessage (.raw ⟨⟨[], ['R', 'a', 'w'], [], 0#64, 0#64, 0#64, []⟩, [0, 2], [1#8, 2#8], 1000,
          [d500, d500]⟩)), .resp ⟨.ok, .none, 0#64, []⟩] := by decide +kernel

/-- R6: a sample of 0 at an interval's end reports 128 and decays by 13. -/
theorem test_rcdaddsample_level :
    (run (.rcdAddsample 0#8) (rcd .idle false [] [] 0 99)).out
      = [.sink 0 (.reportLevel 128), .resp ⟨.ok, .none, 0#64, []⟩] ∧
    (run (.rcdAddsample 0#8) (rcd .idle false [] [] 0 99)).rcd.level = 115 := by decide

/-- R4: the sample that reaches the budget ends the message, all samples kept in free-running mode. -/
theorem test_rcdaddsample_budget :
    (run (.rcdAddsample 6#8) (rcd .capturing true [4#8, 5#8] [⟨2, d500⟩] 3 0)).out
      = [.sink 0 (.parsedMessage (.raw ⟨⟨[], ['R', 'a', 'w'], [], 0#64, 0#64, 0#64, []⟩, [2], [4#8, 5#8, 6#8], 1000,
          [d500]⟩)), .resp ⟨.ok, .none, 0#64, []⟩] := by decide

theorem test_rcdsetrate :
    (run (.rcdSetrate 1000#64) s0).rcd.rate = 1000 ∧
    resp (run (.rcdSetrate 0#64) s0) = plainResp .invalidArgument .badConfig 0#64 := by decide

theorem test_rcdsettarget :
    resp (run (.rcdSettarget 0#8) s0) = plainResp .ok .none 0#64 ∧
    resp (run (.rcdSettarget 1#8) s0) = plainResp .invalidArgument .badIndex 0#64 := by decide

theorem test_rcdstartfree :
    (run (.rcdStartfree 1048576#64) s0).rcd = ⟨.capturing, true, [], [], 1048576, 0, 0, 0, 0⟩ ∧
    resp (run (.rcdStartfree 1048577#64) s0) = plainResp .invalidArgument .badCount 0#64 := by decide

theorem test_rcdgetinfo :
    resp (run .rcdGetinfo s0) = some ⟨.ok, .none, 1#64, [.info ⟨['R', 'a', 'w'], ['R', 'a', 'w'], [], 0, 0⟩]⟩ := by
  decide

/-! ### MR (2.6) -/

theorem test_mrrepeat :
    (run (.mrRepeat 0#8 2#64 []) (enc 0 [.pulses [one], .pulses [ten, one]])).out
      = [.enc 0 ⟨[], 0#1⟩, .enc 0 ⟨[], 1#1⟩,
        .resp ⟨.ok, .none, 5#64, [.duration one, .duration ten, .duration one, .duration ten, .duration one]⟩] := by
  decide

theorem test_mrrepeat_faults :
    (run (.mrRepeat 2#8 1#64 []) (enc 2 [.badMessage])).out
      = [.enc 2 ⟨[], 0#1⟩, .resp ⟨.badMessage, .none, 0#64, []⟩] ∧
    (run (.mrRepeat 4#8 0xFFFFFFFFFFFFFFFF#64 []) s0).out = [.resp ⟨.invalidArgument, .badIndex, 0#64, []⟩] ∧
    resp (run (.mrRepeat 3#8 6554#64 []) (enc 3 [.pulses [one], .pulses (List.replicate 10 ten)]))
      = plainResp .invalidArgument .outputTooLong 0#64 := by decide

/-- Presented answers are port by port: calls on port 0 take nothing of port 1's answers. -/
theorem test_encoder_by_port :
    let s := { s0 with encAnswers := [[.pulses [one], .pulses [ten]], [.pulses [d500], .badMessage], [], []] }
    let t := run (.mrRepeat 0#8 1#64 []) s
    resp t = some ⟨.ok, .none, 2#64, [.duration one, .duration ten]⟩ ∧
    t.encAnswers = [[], [.pulses [d500], .badMessage], [], []] ∧
    resp (run (.mrRepeat 1#8 1#64 []) t) = plainResp .badMessage .none 0#64 := by decide

/-! ### Number formats -/

/-- 40_message_model.md R133. -/
theorem test_parseint :
    parseInt ['-', '4', '2'] = BitVec.ofInt 64 (-42) ∧ parseInt [] = BitVec.ofInt 64 (-1) ∧
    parseInt ['4', 'x'] = BitVec.ofInt 64 (-1) := by decide

/-! ### Witnesses: states and operands that meet the hypotheses of each statement, clause by clause -/

theorem witness_DecodedTransfersAreTheEncoding :
    decode [.word 0x14000000#32, .word 6#32, .word 0#32, .word 0#32] = .command (.bfbGetbit 0#8 6#64) [.word 0#32] ∧
    .message [⟨['a'], none, some []⟩] ∈ encode (.mrRepeat 0#8 1#64 [⟨⟨'a', []⟩, .str []⟩]) ∧
    messageRecordWf [⟨['a'], some 5#64, some []⟩] = false := by
  decide

theorem witness_IllegalWordsAreThoseMatchingNoRow :
    (∀ r ∈ opcodeMap, 0x15000002#32 &&& r.2 ≠ r.1) ∧ ¬∀ r ∈ opcodeMap, 0x15000001#32 &&& r.2 ≠ r.1 := by
  simp [opcodeMap]

theorem witness_StepRunsTheDecodedCommand :
    let s := { s0 with cmd := [.word 0x12000000#32, .word 0#32] }
    s.resetIn = false ∧ decode s.cmd = .command (.bfbClear 0#8) [.word 0#32] := by decide

theorem witness_IllegalCommandWordIsRefused :
    let s := { s0 with cmd := [.word 0x70000000#32] }
    s.resetIn = false ∧ s.cmd = .word 0x70000000#32 :: [] ∧ ∀ r ∈ opcodeMap, 0x70000000#32 &&& r.2 ≠ r.1 :=
  ⟨rfl, rfl, by simp [opcodeMap]⟩

theorem witness_NoCommandChangesNothing :
    s0.resetIn = false ∧ s0.cmd = [] ∧
    2 < (encode (.pcAdd d500 true)).length ∧ (0 : Nat) < 2 ∧
    { s0 with cmd := [.word 0x30000001#32, .word 0#32] }.cmd = (encode (.pcAdd d500 true)).take 2 := by decide

theorem witness_HardwareResetLoadsTheResetState : { s0 with resetIn := true }.resetIn = true := by decide

theorem witness_ResetStateValues :
    (0 : Nat) < prm.nbuf ∧ 3 < prm.nbuf ∧ 0 < prm.fdHistMax ∧ 15 < prm.fdHistMax ∧ 0 < prm.ndec ∧ 7 < prm.ndec := by
  decide

/-- The invariant is not empty: it holds of the reset state with given parameters. -/
theorem witness_EveryStepKeepsTheInvariant :
    PpcInv { s0 with cmd := [.word 0x16000001#32] } ∧ ∃ t, step { s0 with cmd := [.word 0x16000001#32] } = .next t :=
  ⟨by decide +kernel, _, rfl⟩

theorem witness_FaultingCommandChangesOnlyTheRecord :
    (∃ t, exec (.bfbNew 4#8 65#64) s0 = .next t ∧ t.out = [] ++ [.resp ⟨.invalidArgument, .badIndex, 0#64, []⟩]) ∧
    (∀ e n msg, Instr.bfbNew 4#8 65#64 ≠ .mrRepeat e n msg) ∧
    (∃ t, exec (.mrRepeat 2#8 1#64 []) (enc 2 [.badMessage]) = .next t ∧
      t.out = [.enc 2 ⟨[], 0#1⟩] ++ [.resp ⟨.badMessage, .none, 0#64, []⟩]) :=
  ⟨⟨_, rfl, by decide⟩, nofun, ⟨_, rfl, by decide⟩⟩

theorem witness_CommandsFaultOnlyAsListed :
    ∃ t, exec (.bfbAddmsb 0#8 true) (buf0 64 0#64) = .next t ∧ t.out = [] ++ [.resp ⟨.rangeError, .full, 0#64, []⟩] ∧
      (Status.rangeError ≠ .ok) := ⟨_, rfl, by decide, by decide⟩

theorem witness_SuccessLeavesTheFaultRecord :
    ∃ t, exec .nop s0 = .next t ∧ t.out = [] ++ [.resp ⟨.ok, .none, 0#64, []⟩] ∧ Instr.nop ≠ .sysReset :=
  ⟨_, rfl, by decide, by decide⟩

theorem witness_ReadsHaveNoSideEffect :
    readsOnly (.bfbLen 0#8) = true ∧
    ∃ t, exec (.bfbLen 0#8) (buf0 64 0#64) = .next t ∧ t.out = [] ++ [.resp ⟨.ok, .none, 64#64, []⟩] :=
  ⟨by decide, _, rfl, by decide⟩

theorem witness_StorageIsWrittenOnlyByItsOwnCommands :
    Instr.nop ≠ .sysReset ∧ (∃ t, exec .nop s0 = .next t) ∧ writesBank .nop = false ∧ writesFd .nop = false ∧
    writesHist (.topSetrate 1#64) = false ∧ writesRcdSamples (.rcdParse d500 true) = false ∧
    writesRcdPulses (.rcdAddsample 0#8) = false ∧ writesPc .nop = false ∧ writesDg .nop = false ∧ writesTargets .nop = false ∧ writesRcd .nop = false ∧
    writesCsr .nop = false := ⟨by decide, ⟨_, rfl⟩, by decide⟩

/-- The start of a capture empties the lists (the other way of the two buffer clauses). -/
theorem witness_StorageIsWrittenOnlyByItsOwnCommands_start :
    ∃ t, exec (.rcdStartfree 1#64) (rcd .capturing false [1#8] [⟨0, d500⟩] 9 0) = .next t ∧ t.rcd.samples = [] ∧
      t.rcd.pulses = [] ∧ startsRcdCapture (.rcdStartfree 1#64) = true := ⟨_, rfl, by decide⟩

/-- Index clauses at 3 and 4, with `NBUF` = 4. -/
theorem witness_BfbIndex : (3#8).toNat < s0.params.nbuf ∧ s0.params.nbuf ≤ (4#8).toNat := by decide

/-- `BfbNewConstructsAnEmptyValue`, `BfbNewvKeepsTheLowBits`, `BfbShrShiftsAndShortens`: 0 and 64, -1 and 65; the index
clauses, and all clauses of `BfbClearEmptiesTheBuffer` and `BfbLenReadsTheLength`, are `witness_BfbIndex`. -/
theorem witness_BfbNew_BfbNewv_BfbShr :
    (3#8).toNat < s0.params.nbuf ∧ (-1#64).toInt < 0 ∧ 64 < (65#64).toInt ∧ 0 ≤ (0#64).toInt ∧ (0#64).toInt ≤ 64 ∧
    0 ≤ (64#64).toInt ∧ (64#64).toInt ≤ 64 := by decide

theorem witness_BfbGetbit_BfbSetbit :
    (3#8).toNat < s0.params.nbuf ∧ (-1#64).toInt < 0 ∧ 63 < (64#64).toInt ∧ 0 ≤ (0#64).toInt ∧ (0#64).toInt ≤ 63 ∧
    0 ≤ (63#64).toInt ∧ (63#64).toInt ≤ 63 ∧ BufInv ((buf0 63 0x4000000000000000#64).buf (0#8).toNat) ∧
    ((buf0 63 0x4000000000000000#64).buf (0#8).toNat).len ≤ 63 := by decide

theorem witness_BfbAddmsb_BfbAddlsb :
    (0#8).toNat < (buf0 64 0#64).params.nbuf ∧ ((buf0 64 0#64).buf (0#8).toNat).len = 64 ∧
    ((buf0 63 0#64).buf (0#8).toNat).len ≠ 64 ∧ ((buf0 0 0#64).buf (0#8).toNat).len ≠ 64 := by decide

/-- `BfbInsertWritesTheField`, `BfbExtuReadsTheField`, `BfbExtsReadsTheFieldByMode`: (62, 1) and (0, 63) are legal, (63, 1),
(3, 0) and (-1, 4) are not. -/
theorem witness_BfbInsert_BfbExtu_BfbExts :
    (3#8).toNat < s0.params.nbuf ∧ LegalField 62#64 1#64 ∧ LegalField 0#64 63#64 ∧ ¬LegalField 63#64 1#64 ∧
    ¬LegalField 3#64 0#64 ∧ ¬LegalField (-1#64) 4#64 := by unfold LegalField; decide

theorem witness_BfbTobytesListsTheBytes :
    (0#8).toNat < s0.params.nbuf ∧ 57 ≤ ((buf0 57 0#64).buf (0#8).toNat).len ∧
    ((buf0 56 0#64).buf (0#8).toNat).len ≤ 56 ∧ ((buf0 0 0#64).buf (0#8).toNat).len ≤ 56 := by decide

theorem witness_BfbEqComparesLengthAndBits :
    (3#8).toNat < s0.params.nbuf ∧ (0#8).toNat < s0.params.nbuf ∧ s0.params.nbuf ≤ (4#8).toNat := by decide

theorem witness_BfbHashIsAFunctionOfThePair :
    (3#8).toNat < s0.params.nbuf ∧ (2#8).toNat < s0.params.nbuf ∧ s0.params.nbuf ≤ (4#8).toNat ∧
    s0.buf (3#8).toNat = s0.buf (2#8).toNat := by decide

theorem witness_InsertedFieldReadsBack :
    (3#8).toNat < s0.params.nbuf ∧ s0.bank.length = s0.params.nbuf ∧ LegalField 62#64 1#64 ∧
    ∃ t, exec (.bfbInsert 3#8 62#64 1#64 1#64) s0 = .next t :=
  ⟨by decide, by decide, by unfold LegalField; decide, _, rfl⟩

/-- A group with an active and a passive member, for the three membership statements: 0 active, 7 passive, 1 neither, 8
out of range. -/
theorem witness_DgAdd_DgRemove_DgSetactive :
    let s := { s0 with dg := ⟨[0], [7]⟩ }
    (7#8).toNat < s.params.ndec ∧ s.params.ndec ≤ (8#8).toNat ∧ (0#8).toNat ∈ s.dg.active ∧
    ((7#8).toNat ∉ s.dg.active ∧ (7#8).toNat ∈ s.dg.passive) ∧
    ((1#8).toNat < s.params.ndec ∧ (1#8).toNat ∉ s.dg.active ∧ (1#8).toNat ∉ s.dg.passive) := by decide

theorem witness_DgSettargetReachesEveryMember :
    (0#8).toNat < s0.params.nsink ∧ s0.params.nsink ≤ (1#8).toNat ∧ 0 < s0.decTgt.length ∧ 7 < s0.decTgt.length := by
  decide

theorem witness_DgParseCallsEveryActiveDecoder :
    let s := { s0 with dg := ⟨[0, 1], []⟩, decAnswers := [[⟨3#32, []⟩], []] }
    s.dg.active[0]? = some 0 ∧ s.dg.active[1]? = some 1 ∧ (s.decAnswers.getD 0 [])[0]? = some ⟨3#32, []⟩ ∧
    (s.decAnswers.getD 1 [])[0]? = none ∧ s.dg.active.getLast? = some 1 := by decide

/-- Decoder 0 will report a partial parse and reset on noise, both in one pulse. -/
def resetting : State :=
  { s0 with dg := ⟨[0, 1], []⟩, decAnswers := [[⟨0#32, [.partiallyParsed ['X'] 3]⟩], []] }

/-- Decoders with the duties: idle where the code is 0, then by noise, and three bits decoded at every report. -/
def resettingAccount (i : Nat) : DecoderAccount :=
  ⟨fun calls => (resetting.decoder i calls).code, fun calls => (resetting.decoder i calls).code == 0#32,
    fun calls => (resetting.decoder i calls).code == 0#32, fun _ _ => 3⟩

theorem witness_DgParseCallsEveryActiveDecoder_duties :
    (∀ i ∈ resetting.dg.active, DecoderDuties (resetting.decoder i) (resettingAccount i)) ∧
    (resettingAccount 0).noise [.parse d500 true] = true ∧
    (resetting.decoder 0 [.parse d500 true]).evs[0]? = some (.partiallyParsed ['X'] 3) :=
  ⟨fun _ _ _ _ _ => ⟨.inr, rfl, by simp [resettingAccount], fun _ _ _ _ => by simp [resettingAccount]⟩,
    by decide, by decide⟩

/-- R185 (a): a machine that noise leaves in its state 7 keeps the duties; one that noise moves to another does not. -/
theorem test_noise_keeps_the_state :
    DecoderDuties (fun _ => ⟨7#32, []⟩) ⟨fun _ => 7#32, fun _ => false, fun _ => true, fun _ _ => 0⟩ ∧
    ¬ DecoderDuties (fun calls => ⟨7#32 + BitVec.ofNat 32 calls.length, []⟩)
      ⟨fun calls => 7#32 + BitVec.ofNat 32 calls.length, fun _ => false, fun _ => true, fun _ _ => 0⟩ :=
  ⟨fun _ _ _ => ⟨fun _ => .inl rfl, rfl, by simp, by simp⟩,
    fun h => absurd ((h [] 0#64 true).1 rfl) (by decide)⟩

/-- Presented answers are port by port: decoder 1 answers from its own list, whatever decoder 0 was asked. -/
theorem test_decoder_by_port :
    let s := { s0 with dg := ⟨[0, 1, 0], []⟩, decAnswers := [[⟨3#32, []⟩, ⟨4#32, []⟩], [⟨5#32, []⟩]] }
    resp (run (.dgParse d500 true) s) = plainResp .ok .none 4#64 ∧ (s.decoder 1 [.parse d500 true]).code = 5#32 := by
  decide

/-- Rate clause, flank up and down, push without a flank, neither: the conditions of the five clauses in their own words,
at the state `fd`. -/
theorem witness_FdSampleDetectsFlanksAndPushes :
    s0.fd.rate = 0 ∧ (fd [] 0 false).fd.rate ≠ 0 ∧
    (fd [0#8, 0#8, 0#8] 0 false).csr.fdFlankSwing.toNat < (((51#8).toNat : Int) - ((0#8).toNat : Int)).natAbs ∧
    (0 : Int) < ((51#8).toNat : Int) - ((0#8).toNat : Int) ∧
    (fd [51#8, 51#8, 51#8] 0 false).csr.fdFlankSwing.toNat < (((0#8).toNat : Int) - ((51#8).toNat : Int)).natAbs ∧
    ((0#8).toNat : Int) - ((51#8).toNat : Int) < 0 ∧
    (fd [] 0 false).csr.fdFlankHoldoff.toNat < 0 + 1 ∧ (fd [] 0 false).fd.lastDir = .flat ∧
    ¬((fd [] 0 false).csr.fdFlankSwing.toNat < (((50#8).toNat : Int) - ((0#8).toNat : Int)).natAbs) ∧
    (fd [] 1999 false).fd.rate * (fd [] 1999 false).csr.fdPushPeriodMs.toNat / 1000 ≤ 1999 + 1 ∧
    ¬((fd [] 1998 false).fd.rate * (fd [] 1998 false).csr.fdPushPeriodMs.toNat / 1000 ≤ 1998 + 1) := by decide

theorem witness_SampleRateCommandsStoreTheRate :
    (0#64).toInt < 1 ∧ 2147483647 < (2147483648#64).toInt ∧ 1 ≤ (1#64).toInt ∧ (1#64).toInt ≤ 2147483647 ∧
    1 ≤ (2147483647#64).toInt ∧ (2147483647#64).toInt ≤ 2147483647 := by decide

theorem witness_MatchIsADeviationBelowTheTolerance :
    f64IsNan 0x7FF8000000000000#64 = true ∧ g500.matches Csr.reset.pcTolerance d500 true = true ∧
    p500.matches Csr.reset.pcTolerance d500 true = true := by decide +kernel

/-- `PcAddClassifiesThePulse` and `PcPrimeConfirmsOrSeeds`: the first and the second group match first; the table is full
and nothing matches; it is not full and nothing matches. -/
theorem witness_PcAdd_PcPrime :
    let s := groups [g500]
    let t := groups [⟨false, false, 0#64, d500, 1, d500, d500⟩, g500]
    s.pc.groups[0]? = some g500 ∧ g500.matches s.csr.pcTolerance d500 true = true ∧
    t.pc.groups[1]? = some g500 ∧ (∀ h ∈ t.pc.groups.take 1, h.matches t.csr.pcTolerance d500 true = false) ∧
    (∀ g ∈ (small s).pc.groups, g.matches (small s).csr.pcTolerance ten true = false) ∧
    (small s).pc.groups.length = (small s).params.pcNgroups ∧
    (∀ g ∈ s.pc.groups, g.matches s.csr.pcTolerance ten true = false) ∧ s.pc.groups.length ≠ s.params.pcNgroups := by
  decide +kernel

theorem witness_EndOfMessageSendsTheTrimmedCapture :
    (rcd .capturing true [] [] 1 0).rcd.free = true ∧ (rcd .capturing false [] [] 1 0).rcd.free = false ∧
    (rcd .capturing false [] [] 1 0).rcd.pulses = [] ∧
    (rcd .capturing false [] [⟨0, d500⟩] 1 0).rcd.pulses[1 - 1]? = some ⟨0, d500⟩ := by decide

/-- Idle: 1 unit of the least place starts a capture, 200000.0 and 0.0 do not. Capturing: 500.0 goes on, with and without
a place in a pulse buffer of one; 29000.0 is a gap, after one pulse and after two. -/
theorem witness_RcdParseRunsTheCaptureMachine :
    let full := { rcd .capturing false [] [⟨0, d500⟩] 1 0 with params := { prm with rcdPulseCap := 1 } }
    let one := rcd .capturing false [] [⟨0, d500⟩] 1 0
    let two := rcd .capturing false [] [⟨0, d500⟩, ⟨0, d500⟩] 1 0
    s0.rcd.mode = .idle ∧ f64Lt 0#64 1#64 = true ∧ f64Lt 1#64 0x41086A0000000000#64 = true ∧
    f64Lt 0x41086A0000000000#64 0x41086A0000000000#64 = false ∧ f64Lt 0#64 0#64 = false ∧
    one.rcd.mode = .capturing ∧ f64Lt d500 one.csr.rcdEomGapUs = true ∧
    one.rcd.pulses.length ≠ one.params.rcdPulseCap ∧ full.rcd.pulses.length = full.params.rcdPulseCap ∧
    f64Lt 0x40DC520000000000#64 one.csr.rcdEomGapUs = false ∧ one.rcd.free = false ∧ one.rcd.pulses.length ≤ 1 ∧
    1 < two.rcd.pulses.length := by decide +kernel

/-- No rate; a sample within the interval and one at its end (1000 Hz, ten reports a second); idle; capturing with a budget
of 2, the first and the second sample. -/
theorem witness_RcdAddsampleTracksLevelAndRecords :
    s0.rcd.rate = 0 ∧ (rcd .idle false [] [] 0 98).rcd.rate ≠ 0 ∧
    98 + 1 < (rcd .idle false [] [] 0 98).rcd.rate / (rcd .idle false [] [] 0 98).csr.rcdLevelReportHz.toNat ∧
    (rcd .idle false [] [] 0 99).rcd.rate / (rcd .idle false [] [] 0 99).csr.rcdLevelReportHz.toNat ≤ 99 + 1 ∧
    (rcd .idle false [] [] 0 98).rcd.mode = .idle ∧ (rcd .capturing false [] [] 2 0).rcd.mode = .capturing ∧
    (rcd .capturing false [] [] 2 0).rcd.samples.length + 1 < (rcd .capturing false [] [] 2 0).rcd.budget ∧
    (rcd .capturing false [0#8] [] 2 0).rcd.budget ≤ (rcd .capturing false [0#8] [] 2 0).rcd.samples.length + 1 := by
  decide

theorem witness_RcdStartfreeAndSettarget :
    (0#64).toInt < 1 ∧ (s0.params.rcdSampleCap : Int) < (1048577#64).toInt ∧ 1 ≤ (1#64).toInt ∧
    1 ≤ (1048576#64).toInt ∧ (1048576#64).toInt ≤ (s0.params.rcdSampleCap : Int) ∧
    s0.params.nsink ≤ (1#8).toNat ∧ (0#8).toNat < s0.params.nsink := by decide

/-- The index and count clauses; then answers presented on port 3 for each of the four outcomes, the output bound 4 met and
passed by one. -/
theorem witness_MrRepeatAssemblesTheTrain :
    s0.params.nenc ≤ (4#8).toNat ∧ (3#8).toNat < s0.params.nenc ∧ (-1#64).toInt < 0 ∧ 0 ≤ (0#64).toInt ∧
    ((enc 3 [.badMessage]).encAnswers.getD (3#8).toNat [])[0]? = some .badMessage ∧
    ((enc 3 [.pulses [one], .badMessage]).encAnswers.getD (3#8).toNat [])[0]? = some (.pulses [one]) ∧
    ((enc 3 [.pulses [one], .badMessage]).encAnswers.getD (3#8).toNat [])[1]? = some .badMessage ∧
    ((enc 3 [.pulses [one], .pulses [ten]]).encAnswers.getD (3#8).toNat [])[0]? = some (.pulses [one]) ∧
    ((enc 3 [.pulses [one], .pulses [ten]]).encAnswers.getD (3#8).toNat [])[1]? = some (.pulses [ten]) ∧
    4 < [one].length + [ten].length * (4#64).toInt.toNat ∧ [one].length + [ten].length * (3#64).toInt.toNat ≤ 4 ∧
    (2 : Nat) < (3#64).toInt.toNat ∧ 0 < [ten].length := by decide

theorem witness_CsrRdReadsTheMap :
    resp (run (.csrRd 0x00#8) s0) = plainResp .ok .none (statusWord s0) ∧
    resp (run (.csrRd 0x37#8) s0) = plainResp .ok .none 0#64 ∧
    resp (run (.csrRd 0x02#8) s0) = plainResp .invalidArgument .badCsr 0#64 ∧
    resp (run (.csrRd 0xFF#8) s0) = plainResp .invalidArgument .badCsr 0#64 := by decide

/-- The bounds of every kind of writable register, at their legal end and past it. -/
theorem witness_CsrWrStoresLegalValues :
    (∀ j, 5 ≤ j → (0x1F#64).getLsbD j = false) ∧ (¬∀ j, 5 ≤ j → (0x20#64).getLsbD j = false) ∧
    (1 ≤ (16#64).toInt ∧ (16#64).toInt ≤ (s0.params.fdHistMax : Int)) ∧
    ¬((17#64).toInt ≤ (s0.params.fdHistMax : Int)) ∧ (0 ≤ (255#64).toInt ∧ (255#64).toInt ≤ 255) ∧
    ¬((256#64).toInt ≤ 255) ∧ ((2147483647#64).toInt ≤ 2147483647 ∧ ¬((2147483648#64).toInt ≤ 2147483647)) ∧
    f64IsFinite 0x7FEFFFFFFFFFFFFF#64 = true ∧ f64IsFinite 0x7FF0000000000000#64 = false ∧
    f64Lt 0x8000000000000000#64 0#64 = false ∧ f64Lt 0x8000000000000001#64 0#64 = true := by
  refine ⟨?_, fun h => ?_, ?_⟩
  · intro j hj
    by_cases h : j < 64
    · have : ∀ k : Fin 64, 5 ≤ k.val → (0x1F#64).getLsbD k.val = false := by decide
      exact this ⟨j, h⟩ hj
    · exact BitVec.getLsbD_of_ge _ _ (by omega)
  · exact absurd (h 5 (by decide)) (by decide)
  · decide +kernel

/-- A sample taken, and one turned away for want of FD's rate (`ROUTE` at its reset value enables both units). -/
theorem witness_TopSampleRunsFdThenRcd :
    let s := { s0 with fd := { s0.fd with rate := 1 }, rcd := { s0.rcd with rate := 1 } }
    (s0.csr.route.getLsbD 3 = true ∧ s0.fd.rate = 0) ∧ s.csr.route.getLsbD 4 = true ∧ ¬s.fd.rate = 0 ∧ ¬s.rcd.rate = 0 := by
  decide

/-- Each clause of the status and cause tables: the states that the faults leave. -/
theorem witness_StatusWordFields :
    (∀ st : Status, st ∈ [Status.ok, .invalidArgument, .rangeError, .badMessage, .illegalCommand]) ∧
    (∀ c : Cause, c ∈ [Cause.none, .badIndex, .badLength, .badBitPos, .badField, .badShift, .badConfig, .badCsr,
      .rateNotSet, .badCount, .outputTooLong, .full]) ∧
    ∀ st c, (raise st c s0).lastFault = st ∧ (raise st c s0).lastCause = c :=
  ⟨fun st => by cases st <;> decide, fun c => by cases c <;> decide, fun _ _ => ⟨rfl, rfl⟩⟩

/-- One third of the least place, and the tie of one half, whose even neighbour is 0; the threshold of infinity and the
number below it. -/
theorem witness_RoundingGivesTheNearestNumber :
    (0 : Nat) < 3 ∧ f64IsFinite 1#64 = true ∧ f64Round false 1 3 = 0#64 ∧ f64Round true 1 3 = 0x8000000000000000#64 ∧
    |f64Int (f64Round false 1 2) * 2 - 1| = |f64Int 1#64 * 2 - 1| ∧ f64Int 1#64 ≠ f64Int (f64Round false 1 2) ∧
    f64Round true ((2 ^ 54 - 1) * 2 ^ 2044) 1 = 0xFFF0000000000000#64 ∧
    f64Round false ((2 ^ 54 - 1) * 2 ^ 2044 - 1) 1 = 0x7FEFFFFFFFFFFFFF#64 := by
  decide +kernel

/-- Finite operands: a sum of 0, a quotient, a quotient by zero and one of zeros. -/
theorem witness_FiniteArithmeticRoundsTheExactResult :
    f64IsFinite one = true ∧ f64IsFinite 0x8000000000000000#64 = true ∧ f64Int one + f64Int 0xBFF0000000000000#64 = 0 ∧
    f64Int one - f64Int one = 0 ∧ f64Int one ≠ 0 ∧ f64Int 0x8000000000000000#64 = 0 ∧
    f64Add? one ten = some 0x4026000000000000#64 ∧ f64Div? 0#64 0#64 = none := by decide +kernel

/-- A NaN, the two infinities, finite numbers of both kinds. -/
theorem witness_SpecialOperandsAndComparisons :
    f64IsNan 0x7FF8000000000000#64 = true ∧ ¬f64IsNan one = true ∧ f64IsFinite one = true ∧ f64Int 0#64 = 0 ∧
    f64Sign 0xFFF0000000000000#64 = true ∧ f64Sign 0x7FF0000000000000#64 = false ∧
    f64Lt 0xFFF0000000000000#64 0xFFEFFFFFFFFFFFFF#64 = true ∧ f64Lt 0x7FEFFFFFFFFFFFFF#64 0x7FF0000000000000#64 = true := by
  decide +kernel

/-- The largest and the least number that 64 bits hold, and the empty text. -/
theorem witness_ParseIntReadsDecimalNumbers :
    let largest : Text := ['9', '2', '2', '3', '3', '7', '2', '0', '3', '6', '8', '5', '4', '7', '7', '5', '8', '0', '7']
    let least : Text := ['9', '2', '2', '3', '3', '7', '2', '0', '3', '6', '8', '5', '4', '7', '7', '5', '8', '0', '8']
    (largest ≠ [] ∧ (∀ c ∈ largest, 48 ≤ c.toNat ∧ c.toNat ≤ 57) ∧
      largest.foldl (fun n c => n * 10 + (c.toNat - 48)) 0 < 2 ^ 63) ∧
    ((∀ c ∈ least, 48 ≤ c.toNat ∧ c.toNat ≤ 57) ∧ least.foldl (fun n c => n * 10 + (c.toNat - 48)) 0 ≤ 2 ^ 63) ∧
    ∀ ds : Text, ds ≠ [] → ([] : Text) ≠ ds ∧ ([] : Text) ≠ '-' :: ds :=
  ⟨by simp, by simp, fun _ h => ⟨fun e => h e.symm, nofun⟩⟩

end Sys2Proof.Tests
end

section
/-! The state after reset (10_state.md R60). -/

namespace Sys2Proof.Machine

/-- R60, "BFB registers": each of them is the empty buffer. -/
@[simp] theorem resetWith_bank_getElem? (p : Params) {b : Nat} (h : b < p.nbuf) :
    (State.resetWith p).bank[b]? = some ⟨0, 0#64⟩ :=
  List.getElem?_replicate_of_lt h

/-- R60, FD: every place of the sample history is 0. -/
@[simp] theorem resetWith_fdHist_getElem? (p : Params) {k : Nat} (h : k < p.fdHistMax) :
    (State.resetWith p).fd.hist[k]? = some 0#8 :=
  List.getElem?_replicate_of_lt h

/-- R60, `DEC_TGT`: every decoder's target is sink 0. -/
@[simp] theorem resetWith_decTgt_getElem? (p : Params) {i : Nat} (h : i < p.ndec) :
    (State.resetWith p).decTgt[i]? = some 0 :=
  List.getElem?_replicate_of_lt h

/-- Settles O9: the three families of registers by their lookup lemmas; every other piece of state is one that
`State.resetWith` and `Csr.reset` write out. -/
theorem resetStateValues : Obligations.ResetStateValues := by
  intro p
  have bank := fun b (hb : b < p.nbuf) => resetWith_bank_getElem? p hb
  have hist := fun k (hk : k < p.fdHistMax) => resetWith_fdHist_getElem? p hk
  have targets := fun i (hi : i < p.ndec) => resetWith_decTgt_getElem? p hi
  refine ⟨bank, hist, rfl, rfl, rfl, rfl, rfl, rfl, rfl, rfl, rfl, targets, ?capture_record_csrs⟩
  case capture_record_csrs => and_intros <;> rfl

end Sys2Proof.Machine
end

section
/-! `ParseInt` (40_message_model.md R133). -/

namespace Sys2Proof.Machine

/-- R133, "the decimal digits `0` to `9`". -/
def IsDecimalDigit (c : Char) : Prop := 48 ≤ c.toNat ∧ c.toNat ≤ 57

/-- The number denoted by `acc` followed by the digits `ds`, with no check that `ds` are digits. -/
def decimalFold (acc : Nat) (ds : Text) : Nat := ds.foldl (fun n c => n * 10 + (c.toNat - 48)) acc

theorem not_isDecimalDigit_minus : ¬ IsDecimalDigit '-' := fun h => absurd h.1 (by decide)

@[simp] theorem decimalFold_nil (acc : Nat) : decimalFold acc [] = acc := rfl

@[simp] theorem decimalFold_cons (acc : Nat) (c : Char) (ds : Text) :
    decimalFold acc (c :: ds) = decimalFold (acc * 10 + (c.toNat - 48)) ds := by
  simp only [decimalFold, List.foldl_cons]

theorem digitValue_of_isDecimalDigit {c : Char} (h : IsDecimalDigit c) : digitValue c = some (c.toNat - 48) :=
  if_pos h

theorem digitValue_of_not_isDecimalDigit {c : Char} (h : ¬ IsDecimalDigit c) : digitValue c = none :=
  if_neg h

/-- `digitsValue` reads exactly the texts of digits, each as the number it denotes. -/
theorem digitsValue_eq_some_iff {acc n : Nat} {ds : Text} :
    digitsValue acc ds = some n ↔ (∀ c ∈ ds, IsDecimalDigit c) ∧ n = decimalFold acc ds := by
  induction ds generalizing acc with
  | nil => simp [digitsValue, eq_comm]
  | cons c rest ih =>
    by_cases hc : IsDecimalDigit c
    · simp [digitsValue, digitValue_of_isDecimalDigit hc, ih, hc]
    · simp [digitsValue, digitValue_of_not_isDecimalDigit hc, hc]

theorem decimalValue_minus_cons {ds : Text} (h : ds ≠ []) :
    decimalValue ('-' :: ds) = (digitsValue 0 ds).map fun n : Nat => -(n : Int) := by
  cases ds with
  | nil => exact absurd rfl h
  | cons c rest => rfl

theorem decimalValue_cons_of_ne_minus {c : Char} (h : c ≠ '-') (rest : Text) :
    decimalValue (c :: rest) = (digitsValue 0 (c :: rest)).map fun n : Nat => (n : Int) := by
  unfold decimalValue
  split <;> simp_all

/-- R133's grammar: what `decimalValue` reads is one or more digits, or a minus sign and one or more digits. -/
theorem decimalValue_eq_some_iff {t : Text} {v : Int} :
    decimalValue t = some v ↔ ∃ ds, ds ≠ [] ∧ (∀ c ∈ ds, IsDecimalDigit c) ∧
      (t = ds ∧ v = decimalFold 0 ds ∨ t = '-' :: ds ∧ v = -(decimalFold 0 ds : Int)) := by
  constructor
  · intro h
    match t with
    | [] => simp [decimalValue] at h
    | c :: rest =>
      by_cases hc : c = '-'
      · subst hc
        have hrest : rest ≠ [] := by rintro rfl; simp [decimalValue] at h
        rw [decimalValue_minus_cons hrest, Option.map_eq_some_iff] at h
        obtain ⟨n, hn, rfl⟩ := h
        obtain ⟨hdigits, rfl⟩ := digitsValue_eq_some_iff.mp hn
        exact ⟨rest, hrest, hdigits, .inr ⟨rfl, rfl⟩⟩
      · rw [decimalValue_cons_of_ne_minus hc, Option.map_eq_some_iff] at h
        obtain ⟨n, hn, rfl⟩ := h
        obtain ⟨hdigits, rfl⟩ := digitsValue_eq_some_iff.mp hn
        exact ⟨c :: rest, by simp, hdigits, .inl ⟨rfl, rfl⟩⟩
  · rintro ⟨ds, hne, hdigits, ⟨rfl, rfl⟩ | ⟨rfl, rfl⟩⟩
    · have hread := (digitsValue_eq_some_iff (acc := 0)).mpr ⟨hdigits, rfl⟩
      match t with
      | [] => exact absurd rfl hne
      | c :: rest =>
        have hc : c ≠ '-' := by
          rintro rfl
          exact not_isDecimalDigit_minus (hdigits _ (by simp))
        rw [decimalValue_cons_of_ne_minus hc, hread, Option.map_some]
    · rw [decimalValue_minus_cons hne, digitsValue_eq_some_iff.mpr ⟨hdigits, rfl⟩, Option.map_some]

theorem parseInt_of_fits {t : Text} {v : Int} (hv : decimalValue t = some v)
    (hfits : -(2 ^ 63 : Int) ≤ v ∧ v < 2 ^ 63) : parseInt t = BitVec.ofInt 64 v := by
  rw [parseInt, hv]
  exact if_pos hfits

theorem parseInt_of_no_fitting_value {t : Text}
    (h : ∀ v, decimalValue t = some v → ¬ (-(2 ^ 63 : Int) ≤ v ∧ v < 2 ^ 63)) :
    parseInt t = BitVec.ofInt 64 (-1) := by
  have hones : BitVec.allOnes 64 = BitVec.ofInt 64 (-1) := by decide
  rw [parseInt, ← hones]
  cases hv : decimalValue t with
  | none => rfl
  | some v => exact if_neg (h v hv)

/-- Settles O60: the three clauses are `decimalValue_eq_some_iff` read in both directions, with the bounds of 64 bits
two's complement. -/
theorem parseIntReadsDecimalNumbers : Obligations.ParseIntReadsDecimalNumbers := by
  intro t digit value
  refine ⟨?plain, ?negative, ?other⟩
  case plain =>
    rintro ds hne hdigits rfl (hlt : decimalFold 0 t < 2 ^ 63)
    have hv := decimalValue_eq_some_iff.mpr ⟨t, hne, hdigits, .inl ⟨rfl, rfl⟩⟩
    exact (parseInt_of_fits hv (by omega)).trans (BitVec.ofInt_natCast 64 _)
  case negative =>
    rintro ds hne hdigits rfl (hle : decimalFold 0 ds ≤ 2 ^ 63)
    have hv := decimalValue_eq_some_iff.mpr ⟨ds, hne, hdigits, .inr ⟨rfl, rfl⟩⟩
    have hread := parseInt_of_fits hv (by omega)
    exact hread
  case other =>
    intro hother
    refine parseInt_of_no_fitting_value fun v hv hfits => ?_
    obtain ⟨ds, hne, hdigits, hread⟩ := decimalValue_eq_some_iff.mp hv
    obtain ⟨hplain, hnegative⟩ := hother ds hne hdigits
    obtain ⟨rfl, rfl⟩ | ⟨rfl, rfl⟩ := hread
    · exact hplain ⟨rfl, show decimalFold 0 t < 2 ^ 63 by omega⟩
    · exact hnegative ⟨rfl, show decimalFold 0 ds ≤ 2 ^ 63 by omega⟩

end Sys2Proof.Machine
end

section
/-! The shape that the BFB commands share: the index check before all else, then an OK response or a fault; and the
operand checks that come next (20_memory.md R76, 41_bitfield.md R151). -/

namespace Sys2Proof.Machine

/-! ### The index check -/

section IndexCheck

variable {i : Instr} {b : Byte} {s t : State} {k : Buf → State} {v : Word64} {l : List PayloadItem} {st : Status}
  {c : Cause}

theorem onBuf_of_lt (hb : b.toNat < s.params.nbuf) : onBuf b s k = k (s.buf b.toNat) := if_pos hb

theorem onBuf_of_le (hb : s.params.nbuf ≤ b.toNat) : onBuf b s k = raiseArg .badIndex s := if_neg (by omega)

/-- A command that checks its buffer index faults on one the bank does not have. -/
theorem faults_badIndex (hexec : exec i s = .next (onBuf b s k)) (hb : s.params.nbuf ≤ b.toNat) :
    Faults i s .invalidArgument .badIndex := by
  rw [onBuf_of_le hb] at hexec
  exact hexec

/-- On a legal index the command faults when its continuation on the register does. -/
theorem faults_of_onBuf (hexec : exec i s = .next (onBuf b s k)) (hb : b.toNat < s.params.nbuf)
    (hk : k (s.buf b.toNat) = raise st c s) : Faults i s st c := by
  rw [onBuf_of_lt hb, hk] at hexec
  exact hexec

/-- On a legal index the command answers what its continuation on the register answers. -/
theorem answers_of_onBuf (hexec : exec i s = .next (onBuf b s k)) (hb : b.toNat < s.params.nbuf)
    (hk : k (s.buf b.toNat) = respondList v l t) : Answers i s t v l := by
  rw [onBuf_of_lt hb, hk] at hexec
  exact hexec

end IndexCheck

/-! ### Operands -/

/-- A word that is not negative is the same number signed and unsigned. -/
theorem toInt_eq_toNat_of_nonneg {a : Word64} (h : 0 ≤ a.toInt) : a.toInt = a.toNat := by
  rw [BitVec.toInt_eq_toNat_cond] at h ⊢
  split at h <;> omega

theorem inRange_iff {a : Word64} {lo hi : Int} : inRange a lo hi = true ↔ lo ≤ a.toInt ∧ a.toInt ≤ hi := by
  simp [inRange]

theorem not_inRange_of_outside {a : Word64} {lo hi : Int} (h : a.toInt < lo ∨ hi < a.toInt) :
    ¬ inRange a lo hi = true := by
  rw [inRange_iff]
  omega

theorem fieldOk_iff {a l : Word64} : fieldOk a l = true ↔ LegalField a l := by
  simp [fieldOk, LegalField, and_assoc]

/-- The bounds of a legal field are the operand words as natural numbers. -/
theorem LegalField.toInt_eq_toNat {a l : Word64} (h : LegalField a l) :
    a.toInt = a.toNat ∧ l.toInt = l.toNat ∧ 0 < l.toNat := by
  obtain ⟨ha, hl, -⟩ := h
  have hl' := toInt_eq_toNat_of_nonneg (a := l) (by omega)
  exact ⟨toInt_eq_toNat_of_nonneg ha, hl', by omega⟩

end Sys2Proof.Machine
end

section
/-! What the operations on a BFB register do to its length and to every bit of its store (41_bitfield.md R152 to
R163). -/

namespace Sys2Proof.Machine

/-- 00_scope.md section 7: the mask has ones below `n`. -/
theorem getLsbD_mask (n j : Nat) : (mask n).getLsbD j = (decide (j < 64) && decide (j < n)) := by
  rw [mask, BitVec.getLsbD_ofNat, Nat.testBit_two_pow_sub_one]

/-- 00_scope.md section 7: above `n` bits there are copies of the top one of them. -/
theorem getLsbD_sext {n j : Nat} (u : BitVec 64) (hn : 0 < n) (hj : j < 64) :
    (sext n u).getLsbD j = if j < n then u.getLsbD j else u.getLsbD (n - 1) := by
  rw [sext, BitVec.getLsbD_signExtend, BitVec.msb_setWidth, BitVec.getLsbD_setWidth]
  by_cases hjn : j < n <;> simp [hj, hn, hjn]

/-- 10_state.md R22: no bit at or above the length is set. -/
theorem BufInv.getLsbD_eq_false {r : Buf} (h : BufInv r) {j : Nat} (hj : r.len ≤ j) : r.bits.getLsbD j = false := by
  obtain ⟨-, hbits⟩ := h
  exact Nat.testBit_lt_two_pow (hbits.trans_le (Nat.pow_le_pow_right (by omega) hj))

/-- Two registers are equal exactly when their lengths and their stores are. -/
theorem Buf.beq_fields_iff (r r' : Buf) : (r.len == r'.len && r.bits == r'.bits) = true ↔ r = r' := by
  obtain ⟨n, x⟩ := r
  obtain ⟨n', x'⟩ := r'
  simp

/-! ### One bit -/

theorem Buf.setBit_len (r : Buf) (p : Nat) (f : Bool) : (r.setBit p f).len = max r.len (p + 1) := by
  simp only [Buf.setBit]
  split <;> omega

theorem Buf.getLsbD_setBit (r : Buf) (p : Nat) (f : Bool) {j : Nat} (hj : j < 64) :
    (r.setBit p f).bits.getLsbD j = if j = p then f else r.bits.getLsbD j := by
  simp only [Buf.setBit, BitVec.getLsbD_or, BitVec.getLsbD_and, BitVec.getLsbD_not, BitVec.getLsbD_shiftLeft,
    BitVec.getLsbD_setWidth, BitVec.getLsbD_ofBool, BitVec.getLsbD_one]
  obtain hlt | rfl | hgt := Nat.lt_trichotomy j p
  · simp [hj, hlt, hlt.ne]
  · simp [hj]
  · have hoff : j - p ≠ 0 := by omega
    simp [hj, hoff, hgt.ne', hgt.not_gt]

theorem Buf.addMsb_len (r : Buf) (f : Bool) : (r.addMsb f).len = r.len + 1 := by
  rw [Buf.addMsb, Buf.setBit_len]
  omega

theorem Buf.getLsbD_addMsb (r : Buf) (f : Bool) {j : Nat} (hj : j < 64) :
    (r.addMsb f).bits.getLsbD j = if j = r.len then f else r.bits.getLsbD j :=
  r.getLsbD_setBit r.len f hj

theorem Buf.getLsbD_addLsb_zero (r : Buf) (f : Bool) : (r.addLsb f).bits.getLsbD 0 = f := by
  simp [Buf.addLsb]

theorem Buf.getLsbD_addLsb_succ (r : Buf) (f : Bool) {j : Nat} (hj : j < 63) :
    (r.addLsb f).bits.getLsbD (j + 1) = r.bits.getLsbD j := by
  have hj' : j + 1 < 64 := by omega
  simp [Buf.addLsb, hj', BitVec.getLsbD_eq_getElem (show j < 64 by omega)]

/-! ### Fields -/

theorem Buf.insert_len (r : Buf) (p n : Nat) (v : BitVec 64) : (r.insert p n v).len = max r.len (p + n) := by
  simp only [Buf.insert]
  split <;> omega

theorem Buf.getLsbD_insert (r : Buf) (p n : Nat) (v : BitVec 64) {j : Nat} (hj : j < 64) :
    (r.insert p n v).bits.getLsbD j = if p ≤ j ∧ j < p + n then v.getLsbD (j - p) else r.bits.getLsbD j := by
  have hoff : j - p < 64 := by omega
  simp only [Buf.insert, BitVec.getLsbD_or, BitVec.getLsbD_and, BitVec.getLsbD_not, BitVec.getLsbD_shiftLeft,
    getLsbD_mask, hj, hoff]
  obtain hlow | hlow := lt_or_ge j p
  · simp [hlow, hlow.not_ge]
  · by_cases hin : j - p < n
    · simp [hlow.not_gt, hlow, hin, show j < p + n by omega]
    · simp [hlow.not_gt, hin, show ¬ j < p + n by omega]

theorem Buf.getLsbD_field (r : Buf) (p n j : Nat) :
    (r.field p n).getLsbD j = (decide (j < n) && r.bits.getLsbD (p + j)) := by
  rw [Buf.field, BitVec.getLsbD_and, BitVec.getLsbD_ushiftRight, getLsbD_mask, Bool.and_comm]
  by_cases hj : j < 64
  · rw [decide_eq_true hj, Bool.true_and]
  · have hout : r.bits.getLsbD (p + j) = false := BitVec.getLsbD_of_ge _ _ (by omega)
    rw [hout, Bool.and_false, Bool.and_false]

/-- R161: the bits of the field below its length, and above it zeros or copies of its top bit. -/
theorem getLsbD_extsValue (m : SxtMode) (r : Buf) (p : Nat) {n j : Nat} (hn : 0 < n) (hj : j < 64) :
    (extsValue m n (r.field p n)).getLsbD j =
      if j < n then r.bits.getLsbD (p + j)
      else match m with
        | .compat => false
        | .signext => r.bits.getLsbD (p + n - 1) := by
  cases m with
  | compat =>
    simp only [extsValue, Buf.getLsbD_field]
    split <;> simp [*]
  | signext =>
    simp only [extsValue, getLsbD_sext _ hn hj, Buf.getLsbD_field]
    split <;> simp [*, Nat.add_sub_assoc (show 1 ≤ n from hn)]

theorem Buf.getLsbD_shiftRight (r : Buf) (n j : Nat) :
    (r.shiftRight n).bits.getLsbD j = r.bits.getLsbD (n + j) :=
  BitVec.getLsbD_ushiftRight ..

/-! ### Bytes -/

theorem Buf.byteCount_eq (r : Buf) : r.byteCount = (r.len + 7) / 8 := rfl

@[simp] theorem Buf.length_bytes (r : Buf) : r.bytes.length = r.byteCount := by simp [Buf.bytes]

theorem Buf.getLsbD_getElem_bytes (r : Buf) {k j : Nat} (hk : k < r.bytes.length) (hj : j < 8) :
    r.bytes[k].getLsbD j = r.bits.getLsbD (8 * k + j) := by
  simp [Buf.bytes, Buf.getLsbD_field, hj]

/-- Byte `i` is a legal field exactly when it ends below bit 64. -/
theorem fieldOk_byte {i : Nat} (hi : i ≤ 7) : fieldOk (natValue (8 * i)) 8#64 = true ↔ i < 7 := by
  have hstart : (natValue (8 * i)).toInt = 8 * i := by
    rw [natValue, BitVec.toInt_eq_toNat_cond, BitVec.toNat_ofNat]
    split <;> omega
  have hlen : (8#64).toInt = 8 := rfl
  rw [fieldOk_iff, LegalField, hstart, hlen]
  omega

/-- R163, R151: the bytes of a register are all legal fields exactly when its length is at most 56; from 57 on the byte
of the bits 56 to 63 is among them. -/
theorem Buf.all_fieldOk_bytes (r : Buf) :
    ((List.range r.byteCount).all fun i => fieldOk (natValue (8 * i)) 8#64) = true ↔ r.len ≤ 56 := by
  rw [List.all_eq_true]
  simp only [List.mem_range, Buf.byteCount_eq]
  constructor
  · intro hall
    by_contra hlen
    exact absurd ((fieldOk_byte le_rfl).mp (hall 7 (by omega))) (by omega)
  · intro hlen i hi
    exact (fieldOk_byte (by omega)).mpr (by omega)

end Sys2Proof.Machine
end

section
/-! The BFB commands (41_bitfield.md R152 to R166). In every proof `hexec` is the command's meaning as its index check
and what follows it. -/

namespace Sys2Proof.Machine

/-- Settles O18: masking leaves the value 0 as it is. -/
theorem bfbNewConstructsAnEmptyValue : Obligations.BfbNewConstructsAnEmptyValue := by
  intro b a s
  have hexec : exec (.bfbNew b a) s = .next (onBuf b s _) := rfl
  refine ⟨rfl, faults_badIndex hexec, ?length, ?constructed⟩
  case length =>
    intro hb hout
    exact faults_of_onBuf hexec hb (if_neg (not_inRange_of_outside hout))
  case constructed =>
    intro hb h0 h64
    refine answers_of_onBuf hexec hb ((if_pos (inRange_iff.mpr ⟨h0, h64⟩)).trans ?_)
    rw [toInt_eq_toNat_of_nonneg h0, Int.toNat_natCast, BitVec.zero_and]
    rfl

/-- Settles O19: masking keeps the bits below the length and no other. -/
theorem bfbNewvKeepsTheLowBits : Obligations.BfbNewvKeepsTheLowBits := by
  intro b a v s
  have hexec : exec (.bfbNewv b a v) s = .next (onBuf b s _) := rfl
  refine ⟨rfl, faults_badIndex hexec, ?length, ?constructed⟩
  case length =>
    intro hb hout
    exact faults_of_onBuf hexec hb (if_neg (not_inRange_of_outside hout))
  case constructed =>
    intro hb h0 h64
    rw [toInt_eq_toNat_of_nonneg h0, Int.toNat_natCast]
    refine ⟨⟨a.toNat, v &&& mask a.toNat⟩, answers_of_onBuf hexec hb (if_pos (inRange_iff.mpr ⟨h0, h64⟩)), rfl, ?_⟩
    intro j hj
    rw [BitVec.getLsbD_and, getLsbD_mask, decide_eq_true hj, Bool.true_and, Bool.and_comm]

/-- Settles O20: past the index check nothing is left to decide. -/
theorem bfbClearEmptiesTheBuffer : Obligations.BfbClearEmptiesTheBuffer := by
  intro b s
  have hexec : exec (.bfbClear b) s = .next (onBuf b s _) := rfl
  exact ⟨rfl, faults_badIndex hexec, fun hb => answers_of_onBuf hexec hb rfl⟩

/-- Settles O21: past the index check nothing is left to decide. -/
theorem bfbLenReadsTheLength : Obligations.BfbLenReadsTheLength := by
  intro b s
  have hexec : exec (.bfbLen b) s = .next (onBuf b s _) := rfl
  exact ⟨rfl, faults_badIndex hexec, fun hb => answers_of_onBuf hexec hb rfl⟩

/-- Settles O22; its last clause is `BufInv.getLsbD_eq_false`. -/
theorem bfbGetbitReadsOneBit : Obligations.BfbGetbitReadsOneBit := by
  intro b a s
  have hexec : exec (.bfbGetbit b a) s = .next (onBuf b s _) := rfl
  refine ⟨rfl, faults_badIndex hexec, ?position, ?read, fun hinv _ => hinv.getLsbD_eq_false⟩
  case position =>
    intro hb hout
    exact faults_of_onBuf hexec hb (if_neg (not_inRange_of_outside hout))
  case read =>
    intro hb h0 h63
    rw [toInt_eq_toNat_of_nonneg h0, Int.toNat_natCast]
    exact answers_of_onBuf hexec hb (if_pos (inRange_iff.mpr ⟨h0, h63⟩))

/-- Settles O23, by the bits and the length of `Buf.setBit`. -/
theorem bfbSetbitWritesOneBitAndGrows : Obligations.BfbSetbitWritesOneBitAndGrows := by
  intro b a f s
  have hexec : exec (.bfbSetbit b a f) s = .next (onBuf b s _) := rfl
  refine ⟨rfl, faults_badIndex hexec, ?position, ?written⟩
  case position =>
    intro hb hout
    exact faults_of_onBuf hexec hb (if_neg (not_inRange_of_outside hout))
  case written =>
    intro hb h0 h63
    rw [toInt_eq_toNat_of_nonneg h0, Int.toNat_natCast]
    exact ⟨(s.buf b.toNat).setBit a.toNat f, answers_of_onBuf hexec hb (if_pos (inRange_iff.mpr ⟨h0, h63⟩)),
      Buf.setBit_len .., fun _ => Buf.getLsbD_setBit _ _ _⟩

/-- Settles O24, by the bits and the length of `Buf.addMsb`. -/
theorem bfbAddmsbAppendsAtTheTop : Obligations.BfbAddmsbAppendsAtTheTop := by
  intro b f s
  have hexec : exec (.bfbAddmsb b f) s = .next (onBuf b s _) := rfl
  refine ⟨rfl, faults_badIndex hexec, ?full, ?appended⟩
  case full => exact fun hb hfull => faults_of_onBuf hexec hb (if_pos hfull)
  case appended =>
    intro hb hroom
    exact ⟨(s.buf b.toNat).addMsb f, answers_of_onBuf hexec hb (if_neg hroom), Buf.addMsb_len ..,
      fun _ => Buf.getLsbD_addMsb _ _⟩

/-- Settles O25, by the bits of `Buf.addLsb`. -/
theorem bfbAddlsbAppendsAtTheBottom : Obligations.BfbAddlsbAppendsAtTheBottom := by
  intro b f s
  have hexec : exec (.bfbAddlsb b f) s = .next (onBuf b s _) := rfl
  refine ⟨rfl, faults_badIndex hexec, ?full, ?appended⟩
  case full => exact fun hb hfull => faults_of_onBuf hexec hb (if_pos hfull)
  case appended =>
    intro hb hroom
    exact ⟨(s.buf b.toNat).addLsb f, answers_of_onBuf hexec hb (if_neg hroom), rfl, Buf.getLsbD_addLsb_zero ..,
      fun _ => Buf.getLsbD_addLsb_succ _ _⟩

/-- Settles O26, by the bits and the length of `Buf.insert`. -/
theorem bfbInsertWritesTheField : Obligations.BfbInsertWritesTheField := by
  intro b a l v s
  have hexec : exec (.bfbInsert b a l v) s = .next (onBuf b s _) := rfl
  refine ⟨rfl, faults_badIndex hexec, ?field, ?written⟩
  case field => exact fun hb hfield => faults_of_onBuf hexec hb (if_neg (mt fieldOk_iff.mp hfield))
  case written =>
    intro hb hfield
    obtain ⟨ha, hl, -⟩ := hfield.toInt_eq_toNat
    refine ⟨(s.buf b.toNat).insert a.toNat l.toNat v, answers_of_onBuf hexec hb (if_pos (fieldOk_iff.mpr hfield)),
      ?_, ?_⟩
    · rw [ha, hl, ← Int.natCast_add, Int.toNat_natCast]
      exact Buf.insert_len ..
    · intro j hj
      rw [ha, hl, ← Int.natCast_add, Int.toNat_natCast]
      simpa only [Int.ofNat_le, Int.ofNat_lt] using Buf.getLsbD_insert _ _ _ _ hj

/-- Settles O27, by the bits of `Buf.field`. -/
theorem bfbExtuReadsTheField : Obligations.BfbExtuReadsTheField := by
  intro b a l s
  have hexec : exec (.bfbExtu b a l) s = .next (onBuf b s _) := rfl
  refine ⟨rfl, faults_badIndex hexec, ?field, ?read⟩
  case field => exact fun hb hfield => faults_of_onBuf hexec hb (if_neg (mt fieldOk_iff.mp hfield))
  case read =>
    intro hb hfield
    obtain ⟨ha, hl, -⟩ := hfield.toInt_eq_toNat
    refine ⟨(s.buf b.toNat).field a.toNat l.toNat, answers_of_onBuf hexec hb (if_pos (fieldOk_iff.mpr hfield)), ?_⟩
    intro j
    simpa only [ha, hl, Int.toNat_natCast, Int.ofNat_lt] using Buf.getLsbD_field ..

/-- Settles O28, by the bits of `extsValue` in both modes. -/
theorem bfbExtsReadsTheFieldByMode : Obligations.BfbExtsReadsTheFieldByMode := by
  intro b a l s
  have hexec : exec (.bfbExts b a l) s = .next (onBuf b s _) := rfl
  refine ⟨rfl, faults_badIndex hexec, ?field, ?read⟩
  case field => exact fun hb hfield => faults_of_onBuf hexec hb (if_neg (mt fieldOk_iff.mp hfield))
  case read =>
    intro hb hfield
    obtain ⟨ha, hl, hpos⟩ := hfield.toInt_eq_toNat
    refine ⟨extsValue s.params.sxtMode l.toNat ((s.buf b.toNat).field a.toNat l.toNat),
      answers_of_onBuf hexec hb (if_pos (fieldOk_iff.mpr hfield)), ?_⟩
    intro j hj
    rw [ha, hl, ← Int.natCast_add]
    simp only [Int.toNat_natCast, Int.ofNat_lt]
    exact getLsbD_extsValue _ _ _ hpos hj

/-- Settles O29, by the bits of `Buf.shiftRight`. -/
theorem bfbShrShiftsAndShortens : Obligations.BfbShrShiftsAndShortens := by
  intro b a s
  have hexec : exec (.bfbShr b a) s = .next (onBuf b s _) := rfl
  refine ⟨rfl, faults_badIndex hexec, ?distance, ?shifted⟩
  case distance =>
    intro hb hout
    exact faults_of_onBuf hexec hb (if_neg (not_inRange_of_outside hout))
  case shifted =>
    intro hb h0 h64
    rw [toInt_eq_toNat_of_nonneg h0, Int.toNat_natCast]
    refine ⟨(s.buf b.toNat).shiftRight a.toNat, answers_of_onBuf hexec hb (if_pos (inRange_iff.mpr ⟨h0, h64⟩)), ?_,
      Buf.getLsbD_shiftRight _ _⟩
    simp only [Buf.shiftRight]
    omega

/-- Settles O30: which lengths fault is `Buf.all_fieldOk_bytes`, the bytes are those of `Buf.bytes`. -/
theorem bfbTobytesListsTheBytes : Obligations.BfbTobytesListsTheBytes := by
  intro b s
  have hexec : exec (.bfbTobytes b) s = .next (onBuf b s _) := rfl
  refine ⟨rfl, faults_badIndex hexec, ?long, ?listed⟩
  case long =>
    intro hb hlen
    exact faults_of_onBuf hexec hb (if_neg (mt (Buf.all_fieldOk_bytes _).mp (by omega)))
  case listed =>
    intro hb hlen
    refine ⟨(s.buf b.toNat).bytes, ?_, Buf.length_bytes _, fun _ hk _ => Buf.getLsbD_getElem_bytes _ hk⟩
    rw [Buf.length_bytes]
    exact answers_of_onBuf hexec hb (if_pos ((Buf.all_fieldOk_bytes _).mpr hlen))

/-- Settles O31: the check of the second index is what follows the check of the first. -/
theorem bfbEqComparesLengthAndBits : Obligations.BfbEqComparesLengthAndBits := by
  intro b b2 s
  have hexec : exec (.bfbEq b b2) s = .next (onBuf b s _) := rfl
  refine ⟨rfl, ?index, ?compared⟩
  case index =>
    intro hbad
    by_cases hb : b.toNat < s.params.nbuf
    · exact faults_of_onBuf hexec hb (onBuf_of_le (hbad.resolve_left (by omega)))
    · exact faults_badIndex hexec (by omega)
  case compared =>
    intro hb hb2
    refine answers_of_onBuf hexec hb ((onBuf_of_lt hb2).trans ?_)
    simp only [boolValue, Buf.beq_fields_iff]
    rfl

/-- Settles O32: `BFB.HASH` reads nothing of the state but the register. -/
theorem bfbHashIsAFunctionOfThePair : Obligations.BfbHashIsAFunctionOfThePair := by
  intro b b2 s
  have hexec (c : Byte) : exec (.bfbHash c) s = .next (onBuf c s _) := rfl
  have hash (c : Byte) (hc : c.toNat < s.params.nbuf) : Answers (.bfbHash c) s s
      (0#32 ++ Config.hashFn (s.buf c.toNat).len (s.buf c.toNat).bits) [] := by
    have hwide (x : BitVec 32) : x.setWidth 64 = 0#32 ++ x := BitVec.setWidth_eq_append (by omega)
    rw [← hwide]
    exact answers_of_onBuf (hexec c) hc rfl
  refine ⟨rfl, faults_badIndex (hexec b), hash b, ?equal⟩
  case equal =>
    intro hb hb2 heq
    exact ⟨_, hash b hb, heq ▸ hash b2 hb2⟩

end Sys2Proof.Machine
end

section
/-! The shape that the commands with a decoder slot or a sink slot share: the index check before all else, then an OK
response (20_memory.md R76). -/

namespace Sys2Proof.Machine

variable {i : Instr} {b : Byte} {s t : State} {k : Nat → State} {v : Word64}

/-- A command that checks its decoder slot faults on one the group does not have. -/
theorem faults_badIndex_of_onSlot (hexec : exec i s = .next (onSlot b s k)) (hb : s.params.ndec ≤ b.toNat) :
    Faults i s .invalidArgument .badIndex := by
  rw [onSlot, if_neg (by omega)] at hexec
  exact hexec

/-- On a legal decoder slot the command answers what its continuation answers. -/
theorem answers_of_onSlot (hexec : exec i s = .next (onSlot b s k)) (hb : b.toNat < s.params.ndec)
    (hk : k b.toNat = respond v t) : Answers i s t v [] := by
  rw [onSlot, if_pos hb, hk] at hexec
  exact hexec

/-- A command that checks its sink slot faults on one the PPC does not have. -/
theorem faults_badIndex_of_onSink (hexec : exec i s = .next (onSink b s k)) (hb : s.params.nsink ≤ b.toNat) :
    Faults i s .invalidArgument .badIndex := by
  rw [onSink, if_neg (by omega)] at hexec
  exact hexec

/-- On a legal sink slot the command answers what its continuation answers. -/
theorem answers_of_onSink (hexec : exec i s = .next (onSink b s k)) (hb : b.toNat < s.params.nsink)
    (hk : k b.toNat = respond v t) : Answers i s t v [] := by
  rw [onSink, if_pos hb, hk] at hexec
  exact hexec

end Sys2Proof.Machine
end

section
/-! What the operations on the membership lists do to each list (43_group.md R200 to R203). -/

namespace Sys2Proof.Machine

/-! ### One list -/

theorem leaveList_eq_filter (l : List Nat) (i : Nat) : leaveList l i = l.filter (· ≠ i) :=
  List.filter_congr fun _ _ => Bool.eq_iff_iff.mpr (bne_iff_ne.trans decide_eq_true_iff.symm)

theorem leaveList_of_notMem {l : List Nat} {i : Nat} (h : i ∉ l) : leaveList l i = l := by
  rw [leaveList_eq_filter, List.filter_eq_self]
  intro x hx
  exact decide_eq_true (ne_of_mem_of_not_mem hx h)

theorem joinList_eq_ite (l : List Nat) (i : Nat) : joinList l i = if i ∈ l then l else l ++ [i] := by
  simp [joinList]

/-! ### Membership, joining and leaving -/

theorem Dg.member_iff {g : Dg} {i : Nat} : g.member i = true ↔ i ∈ g.active ∨ i ∈ g.passive := by
  simp [Dg.member]

theorem Dg.member_eq_false {g : Dg} {i : Nat} (ha : i ∉ g.active) (hp : i ∉ g.passive) : g.member i = false := by
  simp [Dg.member, ha, hp]

theorem Dg.add_of_member {g : Dg} {i : Nat} (h : g.member i = true) : g.add i = g := if_pos h

theorem Dg.add_of_not_member {g : Dg} {i : Nat} (h : g.member i = false) :
    g.add i = ⟨g.active ++ [i], g.passive⟩ := if_neg (by simp [h])

theorem Dg.remove_of_mem_active {g : Dg} {i : Nat} (h : i ∈ g.active) :
    g.remove i = ⟨g.active.filter (· ≠ i), g.passive⟩ := by
  rw [← leaveList_eq_filter]
  exact if_pos (List.contains_iff_mem.mpr h)

theorem Dg.remove_of_notMem_active {g : Dg} {i : Nat} (h : i ∉ g.active) :
    g.remove i = ⟨g.active, g.passive.filter (· ≠ i)⟩ := by
  rw [← leaveList_eq_filter]
  exact if_neg (mt List.contains_iff_mem.mp h)

theorem Dg.remove_of_not_member {g : Dg} {i : Nat} (ha : i ∉ g.active) (hp : i ∉ g.passive) : g.remove i = g := by
  rw [Dg.remove_of_notMem_active ha, ← leaveList_eq_filter, leaveList_of_notMem hp]

end Sys2Proof.Machine
end

section
/-! What the `setTarget` and `parse` calls of a whole list of decoder slots do (43_group.md R204, R205). -/

namespace Sys2Proof.Machine

/-! ### Targets -/

theorem length_decTgt_foldl_callSetTarget (k : Nat) (l : List Nat) (s : State) :
    (l.foldl (callSetTarget k) s).decTgt.length = s.decTgt.length := by
  induction l generalizing s with
  | nil => rfl
  | cons i r ih => rw [List.foldl_cons, ih, callSetTarget_decTgt, List.length_set]

/-- R204: the calls of a list write the target of every slot in it and of no other. -/
theorem getElem?_decTgt_foldl_callSetTarget (k : Nat) (l : List Nat) (s : State) {j : Nat}
    (hj : j < s.decTgt.length) :
    (l.foldl (callSetTarget k) s).decTgt[j]? = if j ∈ l then some k else s.decTgt[j]? := by
  induction l generalizing s with
  | nil => rfl
  | cons i r ih =>
    rw [List.foldl_cons, ih (callSetTarget k s i) (by simpa using hj), callSetTarget_decTgt]
    by_cases hr : j ∈ r
    · simp [hr]
    · obtain rfl | hji := eq_or_ne j i
      · simp [hj]
      · simp [hr, hji, hji.symm]

/-! ### Pulses -/

/-- R205: the answers of the decoders of a list to one pulse, each called after those before it. -/
def parseAnswers (d : F64) (m : Bool) : List Nat → State → List DecAnswer
  | [], _ => []
  | i :: r, s => s.decoder i [.parse d m] :: parseAnswers d m r (callParse i d m s).2

/-- The answers still presented on the ports after one call to every decoder of a list. -/
def takeAnswers (l : List Nat) (presented : List (List DecAnswer)) : List (List DecAnswer) :=
  l.foldl (fun p i => p.modify i List.tail) presented

/-- The transactions of one pulse to the decoders of a list: each call, then the events of its answer to the decoder's
target. -/
def parseOutput (d : F64) (m : Bool) (tgt : List Nat) (called : List (Nat × DecAnswer)) : List Output :=
  called.flatMap fun p => .dec p.1 (.parse d m) :: p.2.evs.map (.sink (tgt.getD p.1 0))

/-- The code of the last answer; with none, a given one. -/
def lastCode (c : BitVec 32) (answers : List DecAnswer) : BitVec 32 := (answers.getLast?.map DecAnswer.code).getD c

theorem lastCode_cons (c : BitVec 32) (a : DecAnswer) (answers : List DecAnswer) :
    lastCode c (a :: answers) = lastCode a.code answers := by
  rw [lastCode, lastCode, List.getLast?_cons]
  cases answers.getLast? <;> rfl

@[simp] theorem length_parseAnswers (d : F64) (m : Bool) (l : List Nat) (s : State) :
    (parseAnswers d m l s).length = l.length := by
  induction l generalizing s with
  | nil => rfl
  | cons i r ih => rw [parseAnswers, List.length_cons, ih, List.length_cons]

/-- R205: the calls of a list leave the code of the last one, the answers not yet taken and, call by call, the
transactions. -/
theorem foldl_parseStep_eq (d : F64) (m : Bool) (l : List Nat) (c : BitVec 32) (s : State) :
    l.foldl (parseStep d m) (c, s) = (lastCode c (parseAnswers d m l s), { s with
      decAnswers := takeAnswers l s.decAnswers
      out := s.out ++ parseOutput d m s.decTgt (l.zip (parseAnswers d m l s)) }) := by
  induction l generalizing c s with
  | nil => simp [parseAnswers, lastCode, takeAnswers, parseOutput]
  | cons i r ih =>
    have hstep : parseStep d m (c, s) i = ((callParse i d m s).1, (callParse i d m s).2) := rfl
    rw [List.foldl_cons, hstep, ih, parseAnswers, lastCode_cons]
    simp [callParse_eq, takeAnswers, parseOutput]

/-- What is still presented on a port is what no call of the list on that port has taken. -/
theorem getD_takeAnswers (l : List Nat) (presented : List (List DecAnswer)) (i : Nat) :
    (takeAnswers l presented).getD i [] = (presented.getD i []).drop (l.count i) := by
  induction l generalizing presented with
  | nil => rfl
  | cons p r ih =>
    rw [takeAnswers, List.foldl_cons, ← takeAnswers, ih]
    obtain rfl | hip := eq_or_ne i p
    · rw [getD_taken_same, List.count_cons_self, List.drop_tail]
    · rw [getD_taken_other _ hip, List.count_cons_of_ne hip.symm]

/-- 42_contracts.md R185 (f): each answer is that of a decoder that has had the calls made on its own port before, and
no others. -/
theorem getElem?_parseAnswers (d : F64) (m : Bool) {l : List Nat} (s : State) {j i : Nat} (h : l[j]? = some i) :
    (parseAnswers d m l s)[j]? = some (s.decoder i (List.replicate ((l.take j).count i + 1) (.parse d m))) := by
  induction l generalizing s j with
  | nil => simp at h
  | cons p r ih =>
    match j with
    | 0 =>
      obtain rfl : p = i := by simpa using h
      simp [parseAnswers]
    | j + 1 =>
      rw [List.getElem?_cons_succ] at h
      rw [parseAnswers, List.getElem?_cons_succ, ih _ h, List.take_succ_cons]
      obtain rfl | hip := eq_or_ne i p
      · rw [decoder_callParse_same _ _ _ _ _ (by simp), ← List.replicate_succ, List.count_cons_self]
      · rw [decoder_callParse_other _ _ _ _ _ hip, List.count_cons_of_ne hip.symm]

/-- The last answer is that of a decoder that has had all the calls of the list on its port. -/
theorem getLast?_parseAnswers (d : F64) (m : Bool) {l : List Nat} (s : State) {i : Nat} (h : l.getLast? = some i) :
    (parseAnswers d m l s).getLast? = some (s.decoder i (List.replicate (l.count i) (.parse d m))) := by
  obtain ⟨front, rfl⟩ := List.getLast?_eq_some_iff.mp h
  rw [List.getLast?_eq_getElem?, length_parseAnswers, List.length_append, List.length_singleton, Nat.add_sub_cancel,
    getElem?_parseAnswers d m s List.getElem?_concat_length, List.take_left, List.count_append,
    List.count_singleton_self]

/-! ### Decoders with the duties of R185 -/

/-- R185 (a), (b), (c) of a decoder's answer to the last of a run of equal pulses. -/
theorem DecoderDuties.replicate {answer : List DecCall → DecAnswer} {acc : DecoderAccount}
    (h : DecoderDuties answer acc) (d : F64) (m : Bool) (n : Nat) :
    let before := List.replicate n (DecCall.parse d m)
    let calls := List.replicate (n + 1) (DecCall.parse d m)
    (answer calls).code = acc.state calls ∧
    (acc.noise calls = true → (answer calls).code = acc.state before ∨ (answer calls).code = 0#32) ∧
    ((answer calls).code = 0#32 ↔ acc.idle calls = true) ∧
    ∀ k name b, (answer calls).evs[k]? = some (.partiallyParsed name b) → 0 < acc.bits calls k := by
  intro before calls
  obtain ⟨hnoise, hcode, hidle, hbits⟩ := h before d m
  rw [← List.replicate_succ'] at hnoise hcode hidle hbits
  exact ⟨hcode, fun hn => (hnoise hn).imp hcode.trans hidle.mpr, hidle, hbits⟩

/-- R185 (b), R205: the response is 0 exactly when the decoder called last is idle, or when none is called. -/
theorem lastCode_parseAnswers_eq_zero_iff (d : F64) (m : Bool) (l : List Nat) (s : State) (acc : Nat → DecoderAccount)
    (h : ∀ i ∈ l, DecoderDuties (s.decoder i) (acc i)) :
    lastCode 0#32 (parseAnswers d m l s) = 0#32 ↔
      ∀ i, l.getLast? = some i → (acc i).idle (List.replicate (l.count i) (.parse d m)) = true := by
  cases hlast : l.getLast? with
  | none =>
    obtain rfl := List.getLast?_eq_none_iff.mp hlast
    simp [parseAnswers, lastCode]
  | some i =>
    have hmem : i ∈ l := List.mem_of_getLast? hlast
    obtain ⟨n, hn⟩ : ∃ n, l.count i = n + 1 := Nat.exists_eq_add_one.mpr (List.count_pos_iff.mpr hmem)
    obtain ⟨-, -, hidle, -⟩ := (h i hmem).replicate d m n
    simpa [lastCode, getLast?_parseAnswers d m s hlast, hn] using hidle

end Sys2Proof.Machine
end

section
/-! The DG commands (43_group.md R201 to R205). In every proof of a command with a slot `hexec` is the command's meaning
as its index check and what follows it. -/

namespace Sys2Proof.Machine

/-- Settles O34: what `Dg.add` does by membership. -/
theorem dgAddJoinsTheActiveList : Obligations.DgAddJoinsTheActiveList := by
  intro i s
  have hexec : exec (.dgAdd i) s = .next (onSlot i s _) := rfl
  refine ⟨rfl, faults_badIndex_of_onSlot hexec, ?member, ?joined⟩
  case member =>
    intro hi hin
    refine answers_of_onSlot hexec hi ?_
    rw [Dg.member_iff.mpr hin, Dg.add_of_member (Dg.member_iff.mpr hin)]
    rfl
  case joined =>
    intro hi ha hp
    refine answers_of_onSlot hexec hi ?_
    rw [Dg.member_eq_false ha hp, Dg.add_of_not_member (Dg.member_eq_false ha hp)]
    rfl

/-- Settles O35: what `Dg.remove` does by the list that holds the decoder. -/
theorem dgRemoveLeavesTheListThatHoldsIt : Obligations.DgRemoveLeavesTheListThatHoldsIt := by
  intro i s
  have hexec : exec (.dgRemove i) s = .next (onSlot i s _) := rfl
  refine ⟨rfl, faults_badIndex_of_onSlot hexec, ?active, ?passive, ?nonmember⟩
  case active =>
    intro hi ha
    refine answers_of_onSlot hexec hi ?_
    rw [Dg.member_iff.mpr (.inl ha), Dg.remove_of_mem_active ha]
    rfl
  case passive =>
    intro hi ha hp
    refine answers_of_onSlot hexec hi ?_
    rw [Dg.member_iff.mpr (.inr hp), Dg.remove_of_notMem_active ha]
    rfl
  case nonmember =>
    intro hi ha hp
    refine answers_of_onSlot hexec hi ?_
    rw [Dg.member_eq_false ha hp, Dg.remove_of_not_member ha hp]
    rfl

/-- Settles O36: the list left and the list joined, for either choice. -/
theorem dgSetactiveMovesTheDecoder : Obligations.DgSetactiveMovesTheDecoder := by
  intro i f s
  have hexec : exec (.dgSetactive i f) s = .next (onSlot i s _) := rfl
  refine ⟨rfl, faults_badIndex_of_onSlot hexec, ?active, ?passive⟩
  case active | passive =>
    rintro hi rfl
    rw [← joinList_eq_ite, ← leaveList_eq_filter]
    exact answers_of_onSlot hexec hi rfl

/-- Settles O37: the calls are those of `settarget_frame`, the targets those after the calls. -/
theorem dgSettargetReachesEveryMember : Obligations.DgSettargetReachesEveryMember := by
  intro k s
  have hexec : exec (.dgSettarget k) s = .next (onSink k s _) := rfl
  refine ⟨rfl, faults_badIndex_of_onSink hexec, ?reached⟩
  case reached =>
    intro hk
    obtain ⟨tgt, hframe⟩ := settarget_frame k.toNat (s.dg.active ++ s.dg.passive) s
    have htgt : tgt = ((s.dg.active ++ s.dg.passive).foldl (callSetTarget k.toNat) s).decTgt := by rw [hframe]
    refine ⟨tgt, answers_of_onSink hexec hk (congrArg (respond 0#64) hframe), ?_, fun j hj => ?_⟩
    · rw [htgt, length_decTgt_foldl_callSetTarget]
    · rw [htgt, getElem?_decTgt_foldl_callSetTarget _ _ _ hj]

/-- Settles O38: the answers are `parseAnswers`, each that of a decoder after the calls on its own port; the duties are
those of each decoder after that many pulses. -/
theorem dgParseCallsEveryActiveDecoder : Obligations.DgParseCallsEveryActiveDecoder := by
  intro d f s
  refine ⟨rfl, parseAnswers d f s.dg.active s, length_parseAnswers .., ?answer, ?next, ?duties⟩
  case answer =>
    intro j i hj turn
    rw [getElem?_parseAnswers d f s hj, State.decoder]
    simp only [List.replicate_succ', List.dropLast_concat, List.countP_replicate, isParse, if_true] <;> rfl
  case next =>
    refine ⟨takeAnswers s.dg.active s.decAnswers, getD_takeAnswers _ _, ?_⟩
    have hwide (x : BitVec 32) : x.setWidth 64 = 0#32 ++ x := BitVec.setWidth_eq_append (by omega)
    have hexec : exec (.dgParse d f) s = .next (respond ((dgParse d f s).1.setWidth 64) (dgParse d f s).2) := rfl
    rw [hwide, dgParse, foldl_parseStep_eq] at hexec
    exact hexec
  case duties =>
    intro acc hduties
    refine ⟨lastCode_parseAnswers_eq_zero_iff d f _ s acc hduties, fun j i a hj ha => ?_⟩
    rw [getElem?_parseAnswers d f s hj, Option.some_inj] at ha
    subst ha
    obtain ⟨hcode, hnoise, -, hbits⟩ :=
      (hduties i (List.mem_of_getElem? hj)).replicate d f ((s.dg.active.take j).count i)
    exact ⟨hcode, hnoise, hbits⟩

end Sys2Proof.Machine
end

section
/-! The shape that the commands with a sample rate share: the range check, then an OK response (44_flank.md R222,
46_rawcapture.md R284, 48_system.md R315). -/

namespace Sys2Proof.Machine

variable {i : Instr} {a : Word64} {s t : State}

theorem rateOk_iff : rateOk a = true ↔ 1 ≤ a.toInt ∧ a.toInt ≤ 2147483647 := inRange_iff

theorem faults_badConfig_of_rate (hexec : exec i s = .next (if rateOk a then respond 0#64 t else raiseArg .badConfig s))
    (hout : a.toInt < 1 ∨ 2147483647 < a.toInt) : Faults i s .invalidArgument .badConfig := by
  have hbad : ¬rateOk a = true := not_inRange_of_outside hout
  rw [if_neg hbad] at hexec
  exact hexec

theorem answers_of_rate (hexec : exec i s = .next (if rateOk a then respond 0#64 t else raiseArg .badConfig s))
    (hlo : 1 ≤ a.toInt) (hhi : a.toInt ≤ 2147483647) : Answers i s t 0#64 [] := by
  rw [if_pos (rateOk_iff.mpr ⟨hlo, hhi⟩)] at hexec
  exact hexec

end Sys2Proof.Machine
end

section
/-! What a sample does to FD, by the test it passes (44_flank.md R221, R223, R226, R228). -/

namespace Sys2Proof.Machine

variable {smp : Byte} {s : State}

theorem flankAccepted_iff :
    flankAccepted smp s = true ↔ s.csr.fdFlankSwing.toNat < (fdDiff smp s).natAbs ∧
      dirOf (fdDiff smp s) ≠ s.fd.lastDir ∧ s.csr.fdFlankHoldoff.toNat < s.fd.cnt + 1 := by
  simp only [flankAccepted, Bool.and_eq_true, decide_eq_true_eq, and_assoc]

/-! ### The three cases -/

theorem fdSample_of_flank {dir : Dir} (hflank : flankAccepted smp s = true) (hdir : dirOf (fdDiff smp s) = dir) :
    fdSample smp s = fdFlank dir (fdAdvance smp s) := hdir ▸ if_pos hflank

theorem fdSample_of_push (hflank : ¬flankAccepted smp s = true) (hpush : pushSamples s ≤ s.fd.cnt + 1) :
    fdSample smp s = fdPush (fdAdvance smp s) := (if_neg hflank).trans (if_pos hpush)

theorem fdSample_of_quiet (hflank : ¬flankAccepted smp s = true) (hpush : ¬pushSamples s ≤ s.fd.cnt + 1) :
    fdSample smp s = fdAdvance smp s := (if_neg hflank).trans (if_neg hpush)

/-! ### The pulses emitted -/

/-- A rising flank ends a space. -/
theorem fdFlank_rise (s : State) :
    fdFlank .rise s = emitPulse
      (if s.fd.pushed then s.csr.fdPushClampUs else f64Sub (us s s.fd.cnt) s.csr.fdPwcUs) false
      { s with fd := ⟨s.fd.hist, 0, .rise, false, s.fd.rate⟩ } := rfl

/-- A falling flank ends a mark. -/
theorem fdFlank_fall (s : State) :
    fdFlank .fall s = emitPulse
      (if s.fd.pushed then s.csr.fdPushClampUs else f64Add (us s s.fd.cnt) s.csr.fdPwcUs) true
      { s with fd := ⟨s.fd.hist, 0, .fall, false, s.fd.rate⟩ } := rfl

/-- A push ends a space and adds an empty mark. -/
theorem fdPush_eq (s : State) :
    fdPush s = emitPulse f64Zero true (emitPulse (us s s.fd.cnt) false
      { s with fd := ⟨s.fd.hist, 0, s.fd.lastDir, true, s.fd.rate⟩ }) := rfl

/-! ### The command -/

theorem faults_rateNotSet_of_fdSample (hrate : s.fd.rate = 0) :
    Faults (.fdSample smp) s .invalidArgument .rateNotSet := congrArg Host.Outcome.next (if_pos hrate)

/-- With a rate set the command answers once FD's steps are done. -/
theorem answers_of_fdSample {t : State} (hrate : s.fd.rate ≠ 0) (hsample : fdSample smp s = t) :
    Answers (.fdSample smp) s t 0#64 [] :=
  congrArg Host.Outcome.next ((if_neg hrate).trans (congrArg (respond 0#64) hsample))

end Sys2Proof.Machine
end

section
/-! The commands of FD and of the sample rates (44_flank.md R221, R222, 46_rawcapture.md R284, 48_system.md R315). -/

namespace Sys2Proof.Machine

/-- Settles O39: one of the three cases of `fdSample`, on the advanced state; an accepted flank by its direction. -/
theorem fdSampleDetectsFlanksAndPushes : Obligations.FdSampleDetectsFlanksAndPushes := by
  intro smp s cnt old diff dir hist raw flank push
  have haccepted : flankAccepted smp s = true ↔ flank := flankAccepted_iff
  refine ⟨rfl, faults_rateNotSet_of_fdSample, ?rise, ?fall, ?push, ?quiet⟩
  case rise =>
    intro hrate hflank hdir
    exact answers_of_fdSample hrate ((fdSample_of_flank (haccepted.mpr hflank) hdir).trans (fdFlank_rise _))
  case fall =>
    intro hrate hflank hdir
    exact answers_of_fdSample hrate ((fdSample_of_flank (haccepted.mpr hflank) hdir).trans (fdFlank_fall _))
  case push =>
    intro hrate hflank hpush
    exact answers_of_fdSample hrate ((fdSample_of_push (mt haccepted.mp hflank) hpush).trans (fdPush_eq _))
  case quiet =>
    intro hrate hflank hpush
    exact answers_of_fdSample hrate (fdSample_of_quiet (mt haccepted.mp hflank) hpush)

/-- Settles O41: a legal rate is the same number signed and unsigned. -/
theorem sampleRateCommandsStoreTheRate : Obligations.SampleRateCommandsStoreTheRate := by
  intro a s
  refine ⟨rfl, rfl, rfl, ?outside, ?stored⟩
  case outside =>
    intro hout
    exact ⟨faults_badConfig_of_rate rfl hout, faults_badConfig_of_rate rfl hout, faults_badConfig_of_rate rfl hout⟩
  case stored =>
    intro hlo hhi
    rw [toInt_eq_toNat_of_nonneg (by omega), Int.toNat_natCast]
    exact ⟨answers_of_rate rfl hlo hhi, answers_of_rate rfl hlo hhi, answers_of_rate rfl hlo hhi⟩

end Sys2Proof.Machine
end

section
/-! The search for a matching group, and what becomes of a pulse that matches none (45_classifier.md R252 to R255). -/

namespace Sys2Proof.Machine

variable {tol d : F64} {m : Bool} {s : State}

/-! ### The first match -/

/-- The search ends at a matching group that no matching group stands before. -/
theorem firstMatch_eq_some {gs : List Group} {k : Nat} {g : Group} (hk : gs[k]? = some g)
    (hmatch : g.matches tol d m = true)
    (hfirst : ∀ (j : Nat) (h : Group), j < k → gs[j]? = some h → h.matches tol d m = false) :
    firstMatch tol d m gs = some k := by
  obtain ⟨hlt, rfl⟩ := List.getElem?_eq_some_iff.mp hk
  refine List.findIdx?_eq_some_iff_getElem.mpr ⟨hlt, hmatch, fun j hj => ?_⟩
  exact Bool.eq_false_iff.mp (hfirst j _ hj (List.getElem?_eq_getElem (hj.trans hlt)))

theorem firstMatch_eq_none_iff {gs : List Group} :
    firstMatch tol d m gs = none ↔ ∀ g ∈ gs, g.matches tol d m = false := List.findIdx?_eq_none_iff

/-! ### The steps of the two commands, by the search -/

theorem pcAdd_of_firstMatch {k : Nat} {g : Group} (hfind : firstMatch s.csr.pcTolerance d m s.pc.groups = some k)
    (hk : s.pc.groups[k]? = some g) :
    pcAdd d m s = (natValue k, { s with pc := { s.pc with groups := s.pc.groups.set k (g.accept d) } }) := by
  have hmodify : s.pc.groups.modify k (Group.accept · d) = s.pc.groups.set k (g.accept d) := by
    rw [List.modify_eq_set_getElem?, hk]
    rfl
  simp only [pcAdd, hfind, hmodify]

theorem pcAdd_of_no_match (hnone : ∀ g ∈ s.pc.groups, g.matches s.csr.pcTolerance d m = false) :
    pcAdd d m s = pcAppend (newGroup d m) s := by
  simp only [pcAdd, firstMatch_eq_none_iff.mpr hnone]

theorem pcPrime_of_firstMatch {k : Nat} (hfind : firstMatch s.csr.pcTolerance d m s.pc.groups = some k) :
    pcPrime d m s = (natValue k, s) := by
  simp only [pcPrime, hfind]

theorem pcPrime_of_no_match (hnone : ∀ g ∈ s.pc.groups, g.matches s.csr.pcTolerance d m = false) :
    pcPrime d m s = pcAppend (newPrimer d m) s := by
  simp only [pcPrime, firstMatch_eq_none_iff.mpr hnone]

/-- A full table drops the group; -1 is the word of all ones. -/
theorem pcAppend_of_full (g : Group) (hfull : s.pc.groups.length = s.params.pcNgroups) :
    pcAppend g s = (BitVec.ofInt 64 (-1), { s with pc := ⟨s.pc.groups, true⟩ }) := if_pos hfull

theorem pcAppend_of_room (g : Group) (hroom : s.pc.groups.length ≠ s.params.pcNgroups) :
    pcAppend g s = (BitVec.ofNat 64 s.pc.groups.length, { s with pc := ⟨s.pc.groups ++ [g], s.pc.ovf⟩ }) :=
  if_neg hroom

/-! ### The commands -/

variable {t : State} {v : Word64}

theorem answers_of_pcAdd (h : pcAdd d m s = (v, t)) : Answers (.pcAdd d m) s t v [] :=
  congrArg (fun r : Word64 × State => Host.Outcome.next (respond r.1 r.2)) h

theorem answers_of_pcPrime (h : pcPrime d m s = (v, t)) : Answers (.pcPrime d m) s t v [] :=
  congrArg (fun r : Word64 × State => Host.Outcome.next (respond r.1 r.2)) h

end Sys2Proof.Machine
end

section
/-! The order in which the groups are reported (45_classifier.md R257). -/

namespace Sys2Proof.Machine

/-! ### The order of the sort -/

theorem reportBefore_iff {serial : Nat} {a b : Group × Nat} :
    reportBefore serial a b = true ↔ b.1.count < a.1.count ∨
      a.1.count = b.1.count ∧ Config.tieKey serial a.2 ≤ Config.tieKey serial b.2 := by
  unfold reportBefore
  split
  next hgt => simp only [hgt, true_or]
  next hle =>
    split
    next hlt => simp only [Bool.false_eq_true, false_iff]; omega
    next hge => rw [decide_eq_true_iff]; omega

theorem reportBefore_total (serial : Nat) : Std.Total fun a b => reportBefore serial a b = true :=
  ⟨fun a b => by rw [reportBefore_iff, reportBefore_iff]; omega⟩

theorem reportBefore_trans (serial : Nat) : IsTrans (Group × Nat) fun a b => reportBefore serial a b = true :=
  ⟨fun a b c => by rw [reportBefore_iff, reportBefore_iff, reportBefore_iff]; omega⟩

theorem count_le_of_reportBefore {serial : Nat} {a b : Group × Nat} (h : reportBefore serial a b = true) :
    b.1.count ≤ a.1.count := by
  rw [reportBefore_iff] at h
  omega

/-! ### The groups reported -/

/-- The groups behind the reports of `pcReports`, in the same order. -/
def reportedGroups (s : State) : List Group :=
  (((s.pc.groups.zipIdx).filter fun g => decide (0 < g.1.count)).insertionSort
    fun a b => reportBefore s.out.length a b = true).map Prod.fst

theorem pcReports_eq_map_reportedGroups (s : State) : pcReports s = (reportedGroups s).map Group.report := by
  rw [reportedGroups, List.map_map]
  rfl

theorem reportedGroups_perm (s : State) :
    (reportedGroups s).Perm (s.pc.groups.filter fun g => decide (0 < g.count)) := by
  have hfilter : ((s.pc.groups.zipIdx).filter fun g => decide (0 < g.1.count)).map Prod.fst =
      s.pc.groups.filter fun g => decide (0 < g.count) := by
    conv_rhs => rw [← List.zipIdx_map_fst 0 s.pc.groups, List.filter_map]
    rfl
  rw [← hfilter]
  exact (List.perm_insertionSort _ _).map Prod.fst

theorem reportedGroups_pairwise (s : State) : (reportedGroups s).Pairwise fun a b => b.count ≤ a.count := by
  have := reportBefore_total s.out.length
  have := reportBefore_trans s.out.length
  exact List.pairwise_map.mpr ((List.pairwise_insertionSort _ _).imp count_le_of_reportBefore)

theorem count_pos_of_mem_reportedGroups {s : State} {g : Group} (h : g ∈ reportedGroups s) : 0 < g.count :=
  of_decide_eq_true (List.mem_filter.mp ((reportedGroups_perm s).mem_iff.mp h)).2

theorem Group.report_of_count_pos {g : Group} (h : 0 < g.count) :
    g.report = ⟨g.isMark, g.count, f64Div g.sum (f64OfNat g.count), g.min, g.max, g.sum⟩ := by
  have havg : g.avg = f64Div g.sum (f64OfNat g.count) := if_neg h.ne'
  rw [Group.report, havg]

end Sys2Proof.Machine
end

section
/-! The commands of PC, and the constant ones of SYS and RCD (45_classifier.md R252 to R258, 46_rawcapture.md R286,
48_system.md R310). -/

namespace Sys2Proof.Machine

/-- Settles O43: the search finds the first match, or none and the table takes a new group if it has room. -/
theorem pcAddClassifiesThePulse : Obligations.PcAddClassifiesThePulse := by
  intro d f s
  refine ⟨rfl, ?accepted, ?dropped, ?opened⟩
  case accepted =>
    intro k g hk hmatch hfirst
    exact answers_of_pcAdd (pcAdd_of_firstMatch (firstMatch_eq_some hk hmatch hfirst) hk)
  case dropped =>
    intro hnone hfull
    exact answers_of_pcAdd ((pcAdd_of_no_match hnone).trans (pcAppend_of_full _ hfull))
  case opened =>
    intro hnone hroom
    exact answers_of_pcAdd ((pcAdd_of_no_match hnone).trans (pcAppend_of_room _ hroom))

/-- Settles O44: as `PC.ADD`, but a match changes nothing. -/
theorem pcPrimeConfirmsOrSeeds : Obligations.PcPrimeConfirmsOrSeeds := by
  intro d f s
  refine ⟨rfl, ?confirmed, ?dropped, ?seeded⟩
  case confirmed =>
    intro k g hk hmatch hfirst
    exact answers_of_pcPrime (pcPrime_of_firstMatch (firstMatch_eq_some hk hmatch hfirst))
  case dropped =>
    intro hnone hfull
    exact answers_of_pcPrime ((pcPrime_of_no_match hnone).trans (pcAppend_of_full _ hfull))
  case seeded =>
    intro hnone hroom
    exact answers_of_pcPrime ((pcPrime_of_no_match hnone).trans (pcAppend_of_room _ hroom))

/-- Settles O45: the list is `reportedGroups`; no group in it has a count of 0, so `avg` is the quotient. -/
theorem pcGetSortsByDescendingCount : Obligations.PcGetSortsByDescendingCount := by
  intro s
  refine ⟨rfl, reportedGroups s, reportedGroups_perm s, reportedGroups_pairwise s, ?_⟩
  have hexec : exec .pcGet s =
      .next (respondList (natValue (pcReports s).length) ((pcReports s).map .group) s) := rfl
  rw [pcReports_eq_map_reportedGroups, List.length_map, List.map_map] at hexec
  have hreports : (reportedGroups s).map (PayloadItem.group ∘ Group.report) = (reportedGroups s).map fun g =>
      .group ⟨g.isMark, g.count, f64Div g.sum (f64OfNat g.count), g.min, g.max, g.sum⟩ :=
    List.map_congr_left fun g hg =>
      congrArg PayloadItem.group (Group.report_of_count_pos (count_pos_of_mem_reportedGroups hg))
  rw [hreports] at hexec
  exact hexec

/-- Settles O46: nothing of the state decides what these commands do. -/
theorem resetOfPcAndTheConstantCommands : Obligations.ResetOfPcAndTheConstantCommands :=
  fun _ => ⟨rfl, rfl, rfl, rfl, rfl, rfl⟩

end Sys2Proof.Machine
end

section
/-! What the steps of RCD do, by the tests they pass (46_rawcapture.md R273 to R281). -/

namespace Sys2Proof.Machine

variable {d : F64} {m : Bool} {smp : Byte} {s t : State}

/-! ### The samples a message keeps -/

theorem Rcd.keep_of_free {r : Rcd} (hfree : r.free = true) : r.keep = r.samples.length := if_pos hfree

theorem Rcd.keep_of_no_pulse {r : Rcd} (hfree : r.free = false) (hnil : r.pulses = []) : r.keep = 0 := by
  simp [Rcd.keep, hfree, hnil]

theorem Rcd.keep_of_last_pulse {r : Rcd} {p : RcdPulse} (hfree : r.free = false)
    (hlast : r.pulses[r.pulses.length - 1]? = some p) : r.keep = p.offset := by
  rw [← List.getLast?_eq_getElem?] at hlast
  simp [Rcd.keep, hfree, hlast]

/-! ### A pulse -/

theorem startsCapture_iff :
    startsCapture d m = true ↔ m = false ∧ f64Lt f64Zero d = true ∧ f64Lt d Config.rcdStartMaxUs = true := by
  simp only [startsCapture, Bool.and_eq_true, Bool.not_eq_true', and_assoc]

/-- R275: the pulses that a capture goes on with. -/
abbrev GoesOn (d : F64) (s : State) : Prop := f64Lt d s.csr.rcdEomGapUs = true ∨ s.rcd.free = true

theorem rcdParse_of_idle (hmode : s.rcd.mode = .idle) :
    rcdParse d m s = if startsCapture d m then startCapture false (maxSamples s) s else s := by
  simp only [rcdParse, hmode]

theorem rcdParse_of_goesOn (hmode : s.rcd.mode = .capturing) (hgo : GoesOn d s) :
    rcdParse d m s =
      if s.rcd.pulses.length = s.params.rcdPulseCap then endOfMessage s else recordPulse d s := by
  simp only [rcdParse, hmode]
  exact if_pos (Bool.or_eq_true_iff.mpr hgo)

theorem rcdParse_of_gap (hmode : s.rcd.mode = .capturing) (hgap : ¬GoesOn d s) :
    rcdParse d m s = if 1 < s.rcd.pulses.length then endOfMessage s else s := by
  simp only [rcdParse, hmode]
  exact if_neg (mt Bool.or_eq_true_iff.mp hgap)

/-- R273: the command answers the state code of the mode it leaves RCD in. -/
theorem answers_of_rcdParse {mode : RcdMode} (hparse : rcdParse d m s = t) (hmode : t.rcd.mode = mode) :
    Answers (.rcdParse d m) s t (boolValue (rcdBit mode)) [] := by
  subst hparse hmode
  rfl

/-! ### A sample: the level -/

/-- R280: inside the interval the level only rises. -/
theorem levelReport_levelRise_of_lt (h : s.rcd.levelCtr + 1 < s.rcd.rate / s.csr.rcdLevelReportHz.toNat) :
    levelReport (levelRise smp s) = levelRise smp s := if_neg (Nat.not_le_of_lt h)

/-- R280: at its end the risen level is reported and then decays. -/
theorem levelReport_levelRise_of_le (h : s.rcd.rate / s.csr.rcdLevelReportHz.toNat ≤ s.rcd.levelCtr + 1) :
    levelReport (levelRise smp s) = { s with
      rcd := { s.rcd with level := max s.rcd.level (magnitude smp) - decayStep s, levelCtr := 0 }
      out := s.out ++ [.sink s.rcd.target (.reportLevel (max s.rcd.level (magnitude smp) : Nat))] } := if_pos h

/-- R280: the level part leaves the capture alone. -/
theorem levelReport_levelRise_capture (smp : Byte) (s : State) :
    (levelReport (levelRise smp s)).rcd.mode = s.rcd.mode ∧
      (levelReport (levelRise smp s)).rcd.samples = s.rcd.samples ∧
      (levelReport (levelRise smp s)).rcd.budget = s.rcd.budget := by
  obtain ⟨_, _, _, hlevel, -⟩ := level_frame smp s
  rw [hlevel]
  exact ⟨rfl, rfl, rfl⟩

/-! ### A sample: the record -/

theorem recordSample_of_idle (hmode : s.rcd.mode = .idle) : recordSample smp s = s := by
  simp only [recordSample, hmode]

theorem recordSample_of_capturing (hmode : s.rcd.mode = .capturing) :
    recordSample smp s =
      if s.rcd.budget ≤ s.rcd.samples.length + 1 then
        endOfMessage { s with rcd := { s.rcd with samples := s.rcd.samples ++ [smp] } }
      else { s with rcd := { s.rcd with samples := s.rcd.samples ++ [smp] } } := by
  simp only [recordSample, hmode, List.length_append, List.length_singleton]

/-! ### The command of a sample -/

theorem faults_rateNotSet_of_rcdAddsample (hrate : s.rcd.rate = 0) :
    Faults (.rcdAddsample smp) s .invalidArgument .rateNotSet := congrArg Host.Outcome.next (if_pos hrate)

/-- With a rate set the command answers once the level part and the record are done. -/
theorem answers_of_rcdAddsample (hrate : s.rcd.rate ≠ 0)
    (hsample : recordSample smp (levelReport (levelRise smp s)) = t) : Answers (.rcdAddsample smp) s t 0#64 [] :=
  congrArg Host.Outcome.next ((if_neg hrate).trans (congrArg (respond 0#64) hsample))

/-! ### The command of a free-running start -/

variable {a : Word64}

theorem faults_badCount_of_rcdStartfree (hout : a.toInt < 1 ∨ (s.params.rcdSampleCap : Int) < a.toInt) :
    Faults (.rcdStartfree a) s .invalidArgument .badCount :=
  congrArg Host.Outcome.next (if_neg (not_inRange_of_outside hout))

theorem answers_of_rcdStartfree (hlo : 1 ≤ a.toInt) (hhi : a.toInt ≤ (s.params.rcdSampleCap : Int)) :
    Answers (.rcdStartfree a) s (startCapture true a.toNat s) 0#64 [] :=
  congrArg Host.Outcome.next (if_pos (inRange_iff.mpr ⟨hlo, hhi⟩))

end Sys2Proof.Machine
end

section
/-! The end of a message and the commands of RCD (46_rawcapture.md R273 to R285). -/

namespace Sys2Proof.Machine

/-- Settles O47: what is kept is `Rcd.keep`, by its three cases. -/
theorem endOfMessageSendsTheTrimmedCapture : Obligations.EndOfMessageSendsTheTrimmedCapture := fun s =>
  ⟨s.rcd.keep, Rcd.keep_of_free, Rcd.keep_of_no_pulse, fun _ => Rcd.keep_of_last_pulse, endOfMessage_eq s⟩

/-- Settles O48: one branch of `rcdParse` per transition, and the mode it leaves RCD in. -/
theorem rcdParseRunsTheCaptureMachine : Obligations.RcdParseRunsTheCaptureMachine := by
  intro d f s start goesOn
  have hstart : startsCapture d f = true ↔ start := startsCapture_iff
  refine ⟨rfl, ?started, ?ignored, ?recorded, ?full, ?ended, ?single⟩
  case started =>
    intro hmode hs
    exact answers_of_rcdParse ((rcdParse_of_idle hmode).trans (if_pos (hstart.mpr hs))) rfl
  case ignored =>
    intro hmode hs
    exact answers_of_rcdParse ((rcdParse_of_idle hmode).trans (if_neg (mt hstart.mp hs))) hmode
  case recorded =>
    intro hmode hgo hroom
    exact answers_of_rcdParse ((rcdParse_of_goesOn hmode hgo).trans (if_neg hroom)) hmode
  case full =>
    intro hmode hgo hfull
    exact answers_of_rcdParse ((rcdParse_of_goesOn hmode hgo).trans (if_pos hfull)) rfl
  case ended =>
    intro hmode hgap hmany
    exact answers_of_rcdParse ((rcdParse_of_gap hmode hgap).trans (if_pos hmany)) rfl
  case single =>
    intro hmode hgap hfew
    exact answers_of_rcdParse ((rcdParse_of_gap hmode hgap).trans (if_neg hfew.not_gt)) hmode

/-- Settles O49: the state between is the one after the level part, which leaves mode, samples and budget alone. -/
theorem rcdAddsampleTracksLevelAndRecords : Obligations.RcdAddsampleTracksLevelAndRecords := by
  intro smp s mag level hz decay
  obtain ⟨hmode, hsamples, hbudget⟩ := levelReport_levelRise_capture smp s
  refine ⟨rfl, faults_rateNotSet_of_rcdAddsample, fun hrate => ⟨levelReport (levelRise smp s),
    levelReport_levelRise_of_lt, levelReport_levelRise_of_le, ?idle, ?recorded, ?ended⟩⟩
  case idle =>
    intro hidle
    exact answers_of_rcdAddsample hrate (recordSample_of_idle (hmode.trans hidle))
  case recorded =>
    rw [← hmode, ← hsamples, ← hbudget]
    intro hcapturing hroom
    exact answers_of_rcdAddsample hrate ((recordSample_of_capturing hcapturing).trans (if_neg hroom.not_ge))
  case ended =>
    rw [← hmode, ← hsamples, ← hbudget]
    intro hcapturing hreached
    exact answers_of_rcdAddsample hrate ((recordSample_of_capturing hcapturing).trans (if_pos hreached))

/-- Settles O50: a legal budget is the same number signed and unsigned; the target is checked as a sink slot. -/
theorem rcdStartfreeAndSettarget : Obligations.RcdStartfreeAndSettarget := by
  intro a k s
  refine ⟨rfl, rfl, faults_badCount_of_rcdStartfree, ?started, faults_badIndex_of_onSink rfl,
    fun hk => answers_of_onSink rfl hk rfl⟩
  intro hlo hhi
  rw [toInt_eq_toNat_of_nonneg (by omega), Int.toNat_natCast]
  exact answers_of_rcdStartfree hlo hhi

end Sys2Proof.Machine
end

section
/-! The train of MR, the two encoder calls behind it and the branches of the command (47_repeater.md R300 to R302). -/

namespace Sys2Proof.Machine

/-! ### The train -/

section Train

variable {α : Type}

theorem copies_succ (n : Nat) (l : List α) : copies (n + 1) l = l ++ copies n l := rfl

theorem length_copies (n : Nat) (l : List α) : (copies n l).length = l.length * n := by
  simp [copies, Nat.mul_comm]

/-- R300: place `j` of copy `c` holds place `j` of the sequence. -/
theorem getElem?_copies {n c j : Nat} {l : List α} (hc : c < n) (hj : j < l.length) :
    (copies n l)[c * l.length + j]? = l[j]? := by
  induction n generalizing c with
  | zero => exact absurd hc (Nat.not_lt_zero c)
  | succ n ih =>
    rw [copies_succ]
    cases c with
    | zero => rw [Nat.zero_mul, Nat.zero_add, List.getElem?_append_left hj]
    | succ c =>
      have hplace : (c + 1) * l.length + j = l.length + (c * l.length + j) := by rw [Nat.succ_mul]; omega
      rw [hplace, List.getElem?_append_right (Nat.le_add_right ..), Nat.add_sub_cancel_left]
      exact ih (Nat.lt_of_succ_lt_succ hc)

theorem length_train (n : Nat) (pre rep : List α) :
    (pre ++ copies n rep).length = pre.length + rep.length * n := by
  rw [List.length_append, length_copies]

theorem getElem?_train {n c j : Nat} (pre : List α) {rep : List α} (hc : c < n) (hj : j < rep.length) :
    (pre ++ copies n rep)[pre.length + c * rep.length + j]? = rep[j]? := by
  rw [Nat.add_assoc, List.getElem?_append_right (Nat.le_add_right ..), Nat.add_sub_cancel_left,
    getElem?_copies hc hj]

end Train

/-! ### The encoder calls -/

/-- The state once calls have been made on one encoder port, each taking an answer there. -/
def State.afterEncCalls (s : State) (e : Nat) (calls : List EncCall) : State :=
  { s with encAnswers := s.encAnswers.modify e (List.drop calls.length), out := s.out ++ calls.map (.enc e) }

variable {e n : Nat} {msg : Message} {s : State} {pre rep : List F64}

theorem callEncode_first (e : Nat) (msg : Message) (s : State) :
    callEncode e msg .first s = (s.encoder e [⟨msg, 0#1⟩], s.afterEncCalls e [⟨msg, 0#1⟩]) := by
  have htail : List.tail = List.drop (α := EncAnswer) 1 := funext fun _ => List.drop_one.symm
  rw [callEncode_eq, htail]
  rfl

/-- 42_contracts.md R186: the REPEATED call is the second of two on the port, so it takes the second answer there. -/
theorem callEncode_repeated (e : Nat) (msg : Message) (s : State) :
    callEncode e msg .repeated (s.afterEncCalls e [⟨msg, 0#1⟩]) =
      (s.encoder e [⟨msg, 0#1⟩, ⟨msg, 1#1⟩], s.afterEncCalls e [⟨msg, 0#1⟩, ⟨msg, 1#1⟩]) := by
  have hanswer : (s.afterEncCalls e [⟨msg, 0#1⟩]).encoder e [⟨msg, 1#1⟩] =
      s.encoder e [⟨msg, 0#1⟩, ⟨msg, 1#1⟩] := by
    have hsame := encoder_callEncode_same e msg .first s [⟨msg, 1#1⟩] (by simp)
    rwa [callEncode_first] at hsame
  have htaken : List.tail ∘ List.drop 1 = List.drop (α := EncAnswer) 2 := funext fun _ => List.tail_drop
  rw [callEncode_eq, phaseBit_repeated, hanswer]
  simp [State.afterEncCalls, List.modify_modify_eq, htaken]

/-- R334: a fault after encoder calls; they stay made. -/
theorem raise_afterEncCalls (st : Status) (c : Cause) (e : Nat) (calls : List EncCall) (s : State) :
    raise st c (s.afterEncCalls e calls) = { s with
      encAnswers := s.encAnswers.modify e (List.drop calls.length), lastFault := st, lastCause := c
      out := s.out ++ (calls.map (.enc e) ++ [.resp ⟨st, c, 0#64, []⟩]) } := by
  rw [← List.append_assoc]
  rfl

/-! ### What follows the operand checks, by the two answers -/

theorem repeatFirst_of_badMessage_first (hfirst : s.encoder e [⟨msg, 0#1⟩] = .badMessage) :
    repeatFirst e n msg s = raise .badMessage .none (s.afterEncCalls e [⟨msg, 0#1⟩]) := by
  simp only [repeatFirst, callEncode_first, hfirst]

theorem repeatFirst_of_pulses (hfirst : s.encoder e [⟨msg, 0#1⟩] = .pulses pre) :
    repeatFirst e n msg s = repeatSecond e n msg pre (s.afterEncCalls e [⟨msg, 0#1⟩]) := by
  simp only [repeatFirst, callEncode_first, hfirst]

theorem repeatFirst_of_badMessage_repeated (hfirst : s.encoder e [⟨msg, 0#1⟩] = .pulses pre)
    (hrepeated : s.encoder e [⟨msg, 0#1⟩, ⟨msg, 1#1⟩] = .badMessage) :
    repeatFirst e n msg s = raise .badMessage .none (s.afterEncCalls e [⟨msg, 0#1⟩, ⟨msg, 1#1⟩]) := by
  simp only [repeatFirst_of_pulses hfirst, repeatSecond, callEncode_repeated, hrepeated]

theorem repeatFirst_eq_repeatTrain (hfirst : s.encoder e [⟨msg, 0#1⟩] = .pulses pre)
    (hrepeated : s.encoder e [⟨msg, 0#1⟩, ⟨msg, 1#1⟩] = .pulses rep) :
    repeatFirst e n msg s = repeatTrain n pre rep (s.afterEncCalls e [⟨msg, 0#1⟩, ⟨msg, 1#1⟩]) := by
  simp only [repeatFirst_of_pulses hfirst, repeatSecond, callEncode_repeated, hrepeated]

theorem repeatTrain_afterEncCalls_of_lt {calls : List EncCall}
    (hlong : s.params.mrOutCap < pre.length + rep.length * n) :
    repeatTrain n pre rep (s.afterEncCalls e calls) =
      raise .invalidArgument .outputTooLong (s.afterEncCalls e calls) := if_pos hlong

theorem repeatTrain_afterEncCalls_of_le {calls : List EncCall}
    (hfits : pre.length + rep.length * n ≤ s.params.mrOutCap) :
    repeatTrain n pre rep (s.afterEncCalls e calls) = respondList (natValue (pre ++ copies n rep).length)
      ((pre ++ copies n rep).map .duration) (s.afterEncCalls e calls) := if_neg hfits.not_gt

/-! ### The command -/

variable {i : Byte} {a : Word64}

theorem faults_badIndex_of_mrRepeat (hi : s.params.nenc ≤ i.toNat) :
    Faults (.mrRepeat i a msg) s .invalidArgument .badIndex := congrArg Host.Outcome.next (if_pos hi)

theorem faults_badCount_of_mrRepeat (hi : i.toNat < s.params.nenc) (ha : a.toInt < 0) :
    Faults (.mrRepeat i a msg) s .invalidArgument .badCount :=
  congrArg Host.Outcome.next ((if_neg hi.not_ge).trans (if_pos ha))

/-- Past the operand checks the count is the same number signed and unsigned. -/
theorem exec_mrRepeat_of_legal (hi : i.toNat < s.params.nenc) (ha : 0 ≤ a.toInt) :
    exec (.mrRepeat i a msg) s = .next (repeatFirst i.toNat a.toInt.toNat msg s) := by
  rw [toInt_eq_toNat_of_nonneg ha, Int.toNat_natCast]
  exact congrArg Host.Outcome.next ((if_neg hi.not_ge).trans (if_neg ha.not_gt))

end Sys2Proof.Machine
end

section
/-! The command of MR (47_repeater.md R300 to R302). -/

namespace Sys2Proof.Machine

/-- Settles O51: the statement's answers are the encoder's to the first and to both calls on its port, and each outcome
is one branch of `repeatFirst` on them. -/
theorem mrRepeatAssemblesTheTrain : Obligations.MrRepeatAssemblesTheTrain := by
  intro e n msg s call1 call2
  refine ⟨rfl, faults_badIndex_of_mrRepeat, faults_badCount_of_mrRepeat, fun he hn => ?_⟩
  intro presented a1 a2 left
  rw [exec_mrRepeat_of_legal he hn]
  have ha1 : s.encoder e.toNat [⟨msg, 0#1⟩] = a1 := rfl
  have ha2 : s.encoder e.toNat [⟨msg, 0#1⟩, ⟨msg, 1#1⟩] = a2 := rfl
  refine ⟨?refusedFirst, ?refusedRepeated, ?tooLong, ?assembled⟩
  case refusedFirst =>
    intro hfirst
    rw [repeatFirst_of_badMessage_first (ha1.trans hfirst), raise_afterEncCalls]
    rfl
  case refusedRepeated =>
    intro pre hfirst hrepeated
    rw [repeatFirst_of_badMessage_repeated (ha1.trans hfirst) (ha2.trans hrepeated), raise_afterEncCalls]
    rfl
  case tooLong =>
    intro pre rep hfirst hrepeated hlong
    rw [repeatFirst_eq_repeatTrain (ha1.trans hfirst) (ha2.trans hrepeated),
      repeatTrain_afterEncCalls_of_lt hlong, raise_afterEncCalls]
    rfl
  case assembled =>
    intro pre rep hfirst hrepeated hfits
    refine ⟨pre ++ copies n.toInt.toNat rep, ?_, length_train .., fun j hj => List.getElem?_append_left hj,
      fun c j hc hj => getElem?_train pre hc hj⟩
    rw [Answers, exec_mrRepeat_of_legal he hn,
      repeatFirst_eq_repeatTrain (ha1.trans hfirst) (ha2.trans hrepeated), repeatTrain_afterEncCalls_of_le hfits]
    rfl

end Sys2Proof.Machine
end

section
/-! The parts of the pulse fan-out and of the sample path: each is its command without the response if its ROUTE bit is
set, and nothing else (48_system.md R316, R317). -/

namespace Sys2Proof.Machine

variable {smp : Byte} {s : State}

/-- A part that a ROUTE bit enables: what holds of its steps holds if the bit is set, and else nothing changes. -/
theorem enabled_or_same {P : State → Prop} {en : Bool} {t : State} (hrun : en = true → P t) :
    if en = true then P (if en = true then t else s) else (if en = true then t else s) = s := by
  cases en with
  | false => exact rfl
  | true => exact hrun rfl

/-! ### The pulse fan-out -/

theorem fanDg_answers (d : F64) (m : Bool) (s : State) :
    if s.csr.route.getLsbD 0 then ∃ v, Answers (.dgParse d m) s (fanDg d m s) v [] else fanDg d m s = s :=
  enabled_or_same (P := fun t => ∃ v, Answers (.dgParse d m) s t v []) fun _ => ⟨_, rfl⟩

theorem fanRcd_answers (d : F64) (m : Bool) (s : State) :
    if s.csr.route.getLsbD 1 then ∃ v, Answers (.rcdParse d m) s (fanRcd d m s) v [] else fanRcd d m s = s :=
  enabled_or_same (P := fun t => ∃ v, Answers (.rcdParse d m) s t v []) fun _ => ⟨_, answers_of_rcdParse rfl rfl⟩

theorem fanPc_answers (d : F64) (m : Bool) (s : State) :
    if s.csr.route.getLsbD 2 then ∃ v, Answers (.pcAdd d m) s (fanPc d m s) v [] else fanPc d m s = s :=
  enabled_or_same (P := fun t => ∃ v, Answers (.pcAdd d m) s t v []) fun _ => ⟨_, answers_of_pcAdd rfl⟩

/-- A pulse handed to DG leaves the CSRs, and so the later enables, alone. -/
@[simp] theorem fanDg_csr (d : F64) (m : Bool) (s : State) : (fanDg d m s).csr = s.csr := by
  unfold fanDg
  split
  · obtain ⟨_, _, hparse, -⟩ := dgParse_frame d m s
    rw [hparse]
  · rfl

/-- A pulse handed to RCD leaves the CSRs, and so PC's enable, alone. -/
@[simp] theorem fanRcd_csr (d : F64) (m : Bool) (s : State) : (fanRcd d m s).csr = s.csr := by
  unfold fanRcd
  split
  · obtain ⟨_, _, hparse, -⟩ := rcdParse_frame d m s
    rw [hparse]
  · rfl

/-! ### The sample path -/

theorem topRateMissing_iff :
    topRateMissing s = true ↔
      (s.csr.route.getLsbD 3 = true ∧ s.fd.rate = 0) ∨ (s.csr.route.getLsbD 4 = true ∧ s.rcd.rate = 0) := by
  simp only [topRateMissing, fdSampleEn, rcdSampleEn, Bool.or_eq_true, Bool.and_eq_true, beq_iff_eq]

/-- FD's rate is looked at only if FD is enabled. -/
theorem topFd_answers (hrate : s.csr.route.getLsbD 3 = true → s.fd.rate ≠ 0) :
    if s.csr.route.getLsbD 3 then Answers (.fdSample smp) s (topFd smp s) 0#64 [] else topFd smp s = s :=
  enabled_or_same (P := fun t => Answers (.fdSample smp) s t 0#64 []) fun hen => answers_of_fdSample (hrate hen) rfl

/-- RCD's rate is looked at only if RCD is enabled. -/
theorem topRcd_answers (hrate : s.csr.route.getLsbD 4 = true → s.rcd.rate ≠ 0) :
    if s.csr.route.getLsbD 4 then Answers (.rcdAddsample smp) s (topRcd smp s) 0#64 [] else topRcd smp s = s :=
  enabled_or_same (P := fun t => Answers (.rcdAddsample smp) s t 0#64 [])
    fun hen => answers_of_rcdAddsample (hrate hen) rfl

/-- A sample handed to FD, and the pulses it completes, leave RCD's enable alone. -/
@[simp] theorem topFd_csr (smp : Byte) (s : State) : (topFd smp s).csr = s.csr := by
  unfold topFd
  split
  · obtain ⟨_, _, _, _, _, hsample, -⟩ := fdSample_frame smp s
    rw [hsample]
  · rfl

/-- A sample handed to FD, and the pulses it completes, leave RCD's rate alone. -/
@[simp] theorem topFd_rcd_rate (smp : Byte) (s : State) : (topFd smp s).rcd.rate = s.rcd.rate := by
  unfold topFd
  split
  · obtain ⟨hrate, -⟩ := fdSample_keeps smp s
    exact hrate
  · rfl

theorem faults_rateNotSet_of_topSample (hmissing : topRateMissing s = true) :
    Faults (.topSample smp) s .invalidArgument .rateNotSet := congrArg Host.Outcome.next (if_pos hmissing)

theorem answers_of_topSample (hrates : ¬topRateMissing s = true) :
    Answers (.topSample smp) s (topRcd smp (topFd smp s)) 0#64 [] := congrArg Host.Outcome.next (if_neg hrates)

end Sys2Proof.Machine
end

section
/-! The CSR file by its map (10_state.md R40): the number of each CSR, its legal values, and what the two commands do
at a number of the map and at any other (48_system.md R311, R312). -/

namespace Sys2Proof.Machine

variable {c : CsrName} {n : Byte} {a : Word64} {s : State}

/-! ### Numbers -/

/-- The CSRs in the order of the rows of R40. -/
def allCsrs : List CsrName :=
  [.status, .route, .fdFlankLength, .fdFlankSwing, .fdFlankHoldoff, .fdPwcUs, .fdPushPeriodMs, .fdPushClampUs, .fdRate,
    .fdPushSamples, .pcTolerance, .pcUsed, .rcdEomGapUs, .rcdMaxMsgMs, .rcdLevelReportHz, .rcdLevelZeroMs, .rcdRate,
    .rcdLevel, .rcdNsamples, .rcdNpulses]

/-- The number of a CSR in R40. -/
def csrNumber : CsrName → Byte
  | .status => 0x00#8
  | .route => 0x01#8
  | .fdFlankLength => 0x10#8
  | .fdFlankSwing => 0x11#8
  | .fdFlankHoldoff => 0x12#8
  | .fdPwcUs => 0x13#8
  | .fdPushPeriodMs => 0x14#8
  | .fdPushClampUs => 0x15#8
  | .fdRate => 0x16#8
  | .fdPushSamples => 0x17#8
  | .pcTolerance => 0x20#8
  | .pcUsed => 0x21#8
  | .rcdEomGapUs => 0x30#8
  | .rcdMaxMsgMs => 0x31#8
  | .rcdLevelReportHz => 0x32#8
  | .rcdLevelZeroMs => 0x33#8
  | .rcdRate => 0x34#8
  | .rcdLevel => 0x35#8
  | .rcdNsamples => 0x36#8
  | .rcdNpulses => 0x37#8

theorem mem_allCsrs (c : CsrName) : c ∈ allCsrs := by cases c <;> decide

@[simp] theorem csrOfNumber_csrNumber (c : CsrName) : csrOfNumber (csrNumber c) = some c := by cases c <;> rfl

theorem csrNumber_of_csrOfNumber (h : csrOfNumber n = some c) : csrNumber c = n := by
  unfold csrOfNumber at h
  split at h
  case h_21 => exact absurd h (Option.some_ne_none c).symm
  all_goals
    next hn =>
    cases h
    exact BitVec.eq_of_toNat_eq hn.symm

/-- R55: a number that no CSR has is reserved. -/
theorem csrOfNumber_eq_none (h : ∀ c, csrNumber c ≠ n) : csrOfNumber n = none :=
  Option.eq_none_iff_forall_ne_some.mpr fun c hc => h c (csrNumber_of_csrOfNumber hc)

/-! ### Access and legal values -/

theorem csrReadOnly_eq_false_iff : csrReadOnly c = false ↔ c ∈ writableCsrs := by cases c <;> decide

/-- R42: ROUTE has five bits. -/
theorem route_legal_iff : (a >>> 5 == 0#64) = true ↔ ∀ j, 5 ≤ j → a.getLsbD j = false := by
  rw [beq_iff_eq]
  constructor
  · intro hshift j hj
    have hbit : (a >>> 5).getLsbD (j - 5) = false := by rw [hshift, BitVec.getLsbD_zero]
    rwa [BitVec.getLsbD_ushiftRight, Nat.add_sub_cancel' hj] at hbit
  · intro hhigh
    refine BitVec.eq_of_getLsbD_eq fun j _ => ?_
    rw [BitVec.getLsbD_ushiftRight, BitVec.getLsbD_zero, hhigh _ (Nat.le_add_right 5 j)]

theorem nonNegFinite_iff : nonNegFinite a = true ↔ f64IsFinite a = true ∧ f64Lt a 0#64 = false := by
  simp only [nonNegFinite, f64Zero, Bool.and_eq_true, Bool.not_eq_true']

/-! ### The commands -/

theorem answers_of_csrRd (c : CsrName) (s : State) : Answers (.csrRd (csrNumber c)) s s (csrValue s c) [] := by
  have hexec : exec (.csrRd (csrNumber c)) s = execCsrRd (csrNumber c) s := rfl
  rw [execCsrRd, csrOfNumber_csrNumber] at hexec
  exact hexec

theorem faults_badCsr_of_csrRd (hreserved : ∀ c, csrNumber c ≠ n) : Faults (.csrRd n) s .invalidArgument .badCsr := by
  have hexec : exec (.csrRd n) s = execCsrRd n s := rfl
  rw [execCsrRd, csrOfNumber_eq_none hreserved] at hexec
  exact hexec

/-- Past the two checks of the number the command is the check of the value. -/
theorem exec_csrWr_of_writable (hc : c ∈ writableCsrs) :
    exec (.csrWr (csrNumber c) a) s = .next (if csrLegal s.params c a then
      respond 0#64 { s with csr := csrStore c a s.csr } else raiseArg .badConfig s) := by
  have hexec : exec (.csrWr (csrNumber c) a) s = execCsrWr (csrNumber c) a s := rfl
  rw [execCsrWr, csrOfNumber_csrNumber] at hexec
  exact hexec.trans (congrArg Host.Outcome.next (if_neg (Bool.eq_false_iff.mp (csrReadOnly_eq_false_iff.mpr hc))))

theorem answers_of_csrWr (hc : c ∈ writableCsrs) (hlegal : csrLegal s.params c a = true) :
    Answers (.csrWr (csrNumber c) a) s { s with csr := csrStore c a s.csr } 0#64 [] :=
  (exec_csrWr_of_writable hc).trans (congrArg Host.Outcome.next (if_pos hlegal))

theorem faults_badConfig_of_csrWr (hc : c ∈ writableCsrs) (hillegal : ¬csrLegal s.params c a = true) :
    Faults (.csrWr (csrNumber c) a) s .invalidArgument .badConfig :=
  (exec_csrWr_of_writable hc).trans (congrArg Host.Outcome.next (if_neg hillegal))

/-- A number that no writable CSR has is reserved, or that of a read-only CSR. -/
theorem faults_badCsr_of_csrWr (hother : ∀ c ∈ writableCsrs, csrNumber c ≠ n) :
    Faults (.csrWr n a) s .invalidArgument .badCsr := by
  have hexec : exec (.csrWr n a) s = execCsrWr n a s := rfl
  cases hcsr : csrOfNumber n with
  | none =>
    rw [execCsrWr, hcsr] at hexec
    exact hexec
  | some c =>
    have hreadOnly : csrReadOnly c = true :=
      Bool.eq_true_of_not_eq_false <|
        mt csrReadOnly_eq_false_iff.mp fun hc => hother c hc (csrNumber_of_csrOfNumber hcsr)
    rw [execCsrWr, hcsr] at hexec
    exact hexec.trans (congrArg Host.Outcome.next (if_pos hreadOnly))

end Sys2Proof.Machine
end

section
/-! The commands of SYS and the fan-out they drive (48_system.md R311 to R317). -/

namespace Sys2Proof.Machine

/-- Settles O40: the states between are those after DG's and RCD's part, and neither part writes the ROUTE bits. -/
theorem emitPulseRunsTheEnabledConsumers : Obligations.EmitPulseRunsTheEnabledConsumers := by
  intro d m s
  refine ⟨fanDg d m (tracePulse d m s), fanRcd d m (fanDg d m (tracePulse d m s)), emitPulse d m s,
    fanDg_answers d m (tracePulse d m s), ?rcd, ?pc, rfl⟩
  case rcd =>
    have hrcd := fanRcd_answers d m (fanDg d m (tracePulse d m s))
    rwa [fanDg_csr] at hrcd
  case pc =>
    have hpc := fanPc_answers d m (fanRcd d m (fanDg d m (tracePulse d m s)))
    rwa [fanRcd_csr, fanDg_csr] at hpc

/-- Settles O53: the statement's map is that of the CSRs' numbers to their values. -/
theorem csrRdReadsTheMap : Obligations.CsrRdReadsTheMap := by
  intro n s map
  have hmap : map = allCsrs.map fun c => (csrNumber c, csrValue s c) := rfl
  rw [hmap]
  refine ⟨rfl, ?read, ?reserved⟩
  case read =>
    intro v hv
    obtain ⟨c, -, hc⟩ := List.mem_map.mp hv
    cases hc
    exact answers_of_csrRd c s
  case reserved =>
    intro hn
    exact faults_badCsr_of_csrRd fun c hc =>
      hn (List.mem_map.mpr ⟨_, List.mem_map_of_mem (mem_allCsrs c), hc⟩)

/-- Settles O54: the statement's map is that of the writable CSRs' numbers to their legal values and their stores. -/
theorem csrWrStoresLegalValues : Obligations.CsrWrStoresLegalValues := by
  intro n a s int nonNeg map
  have hmap : map = writableCsrs.map fun c => (csrNumber c, csrLegal s.params c a = true, csrStore c a s.csr) := by
    simp only [map, int, nonNeg, writableCsrs, List.map_cons, List.map_nil, csrLegal, route_legal_iff, inRange_iff,
      nonNegFinite_iff]
    rfl
  rw [hmap]
  refine ⟨rfl, ?stored, ?refused, ?other⟩
  case stored =>
    intro legal r hr hlegal
    obtain ⟨c, hwritable, hc⟩ := List.mem_map.mp hr
    cases hc
    exact answers_of_csrWr hwritable hlegal
  case refused =>
    intro legal r hr hillegal
    obtain ⟨c, hwritable, hc⟩ := List.mem_map.mp hr
    cases hc
    exact faults_badConfig_of_csrWr hwritable hillegal
  case other =>
    intro hn
    exact faults_badCsr_of_csrWr fun c hwritable hc =>
      hn (List.mem_map.mpr ⟨_, List.mem_map_of_mem hwritable, hc⟩)

/-- Settles O56: FD's part changes neither RCD's enable nor its rate, so the one check covers both units. -/
theorem topSampleRunsFdThenRcd : Obligations.TopSampleRunsFdThenRcd := by
  intro smp s missing
  have hcheck : topRateMissing s = true ↔ missing := topRateMissing_iff
  refine ⟨rfl, fun hmissing => faults_rateNotSet_of_topSample (hcheck.mpr hmissing), fun hrates => ?_⟩
  have hfd : s.csr.route.getLsbD 3 = true → s.fd.rate ≠ 0 := fun hen hzero => hrates (.inl ⟨hen, hzero⟩)
  have hrcd : s.csr.route.getLsbD 4 = true → s.rcd.rate ≠ 0 := fun hen hzero => hrates (.inr ⟨hen, hzero⟩)
  have hsecond := topRcd_answers (smp := smp) (s := topFd smp s)
  rw [topFd_csr, topFd_rcd_rate] at hsecond
  exact ⟨topFd smp s, topRcd smp (topFd smp s), topFd_answers hfd, hsecond hrcd,
    answers_of_topSample (mt hcheck.mp hrates)⟩

/-- Settles O55: `resetPpc` is the statement's next state. -/
theorem sysResetLoadsTheResetState : Obligations.SysResetLoadsTheResetState := fun _ => ⟨rfl, rfl⟩

end Sys2Proof.Machine
end

section
/-! Command words that select no row of the opcode map (30_encoding.md R106, R110, R111). -/

namespace Sys2Proof.Machine

/-! ### Match and mask, field by field -/

theorem cmdWord_inj {c d : CmdWord} : cmdWord c = cmdWord d ↔ c = d :=
  ⟨fun h => by rw [← cmdFields_cmdWord c, h, cmdFields_cmdWord], congrArg cmdWord⟩

theorem cmdWord_and_cmdWord (c m : CmdWord) :
    cmdWord c &&& cmdWord m = cmdWord ⟨c.op &&& m.op, c.sel &&& m.sel, c.sel2 &&& m.sel2, c.imm &&& m.imm⟩ := by
  simp only [cmdWord, ← BitVec.and_append]

theorem and_ones (x : Byte) : x &&& 0xFF#8 = x := BitVec.and_allOnes

/-- R104, "`IMM8[7:1]` is zero" as the mask of the opcode map says it. -/
theorem and_notFlag_eq_zero_iff (x : Byte) : x &&& 0xFE#8 = 0#8 ↔ x.extractLsb' 1 7 = 0#7 := by
  revert x
  decide

/-- A row of the opcode map whose mask covers UNIT and FUNC, for the word's own UNIT and FUNC. -/
theorem cmdWord_and_mask_eq_iff (c : CmdWord) (sel sel2 imm : Byte) :
    cmdWord c &&& cmdWord ⟨0xFF#8, sel, sel2, imm⟩ = cmdWord ⟨c.op, 0#8, 0#8, 0#8⟩ ↔
      c.sel &&& sel = 0#8 ∧ c.sel2 &&& sel2 = 0#8 ∧ c.imm &&& imm = 0#8 := by
  simp only [cmdWord_and_cmdWord, cmdWord_inj, CmdWord.mk.injEq, and_ones, true_and]

/-! ### The row forms: each refuses the words outside its mask -/

section Forms

variable (c : CmdWord)

/-- A row form whose check is on the bits of SEL, SEL2 and `IMM8` that a mask covers. -/
theorem onlyIf_eq_none_iff {ok : Bool} {h : Head} {sel sel2 imm : Byte}
    (hok : ok = true ↔ c.sel &&& sel = 0#8 ∧ c.sel2 &&& sel2 = 0#8 ∧ c.imm &&& imm = 0#8) :
    onlyIf ok h = none ↔ cmdWord c &&& cmdWord ⟨0xFF#8, sel, sel2, imm⟩ ≠ cmdWord ⟨c.op, 0#8, 0#8, 0#8⟩ := by
  rw [Ne, cmdWord_and_mask_eq_iff, ← hok]
  cases ok <;> simp [onlyIf]

theorem plain_eq_none_iff (h : Head) :
    plain c h = none ↔
      cmdWord c &&& cmdWord ⟨0xFF#8, 0xFF#8, 0xFF#8, 0xFF#8⟩ ≠ cmdWord ⟨c.op, 0#8, 0#8, 0#8⟩ :=
  onlyIf_eq_none_iff c (by simp [and_ones, and_assoc])

theorem bySel_eq_none_iff (k : Byte → Head) :
    bySel c k = none ↔ cmdWord c &&& cmdWord ⟨0xFF#8, 0#8, 0xFF#8, 0xFF#8⟩ ≠ cmdWord ⟨c.op, 0#8, 0#8, 0#8⟩ :=
  onlyIf_eq_none_iff c (by simp [and_ones])

theorem bySel2_eq_none_iff (k : Byte → Head) :
    bySel2 c k = none ↔ cmdWord c &&& cmdWord ⟨0xFF#8, 0xFF#8, 0#8, 0xFF#8⟩ ≠ cmdWord ⟨c.op, 0#8, 0#8, 0#8⟩ :=
  onlyIf_eq_none_iff c (by simp [and_ones])

theorem byBoth_eq_none_iff (k : Byte → Byte → Head) :
    byBoth c k = none ↔ cmdWord c &&& cmdWord ⟨0xFF#8, 0#8, 0#8, 0xFF#8⟩ ≠ cmdWord ⟨c.op, 0#8, 0#8, 0#8⟩ :=
  onlyIf_eq_none_iff c (by simp [and_ones])

theorem bySample_eq_none_iff (k : Byte → Head) :
    bySample c k = none ↔ cmdWord c &&& cmdWord ⟨0xFF#8, 0xFF#8, 0xFF#8, 0#8⟩ ≠ cmdWord ⟨c.op, 0#8, 0#8, 0#8⟩ :=
  onlyIf_eq_none_iff c (by simp [and_ones])

theorem byFlag_eq_none_iff (k : Bool → Head) :
    byFlag c k = none ↔
      cmdWord c &&& cmdWord ⟨0xFF#8, 0xFF#8, 0xFF#8, 0xFE#8⟩ ≠ cmdWord ⟨c.op, 0#8, 0#8, 0#8⟩ :=
  onlyIf_eq_none_iff c (by simp [and_ones, and_notFlag_eq_zero_iff, and_assoc])

theorem bySelFlag_eq_none_iff (k : Byte → Bool → Head) :
    bySelFlag c k = none ↔ cmdWord c &&& cmdWord ⟨0xFF#8, 0#8, 0xFF#8, 0xFE#8⟩ ≠ cmdWord ⟨c.op, 0#8, 0#8, 0#8⟩ :=
  onlyIf_eq_none_iff c (by simp [and_ones, and_notFlag_eq_zero_iff])

end Forms

/-! ### The decoder and the step -/

/-- The row of operation code `n` with a given mask, for a word of that operation code that matches no row. -/
theorem and_mask_ne_of_row {c : CmdWord} {n : Nat} {mask : Word} (hno : ∀ r ∈ opcodeMap, cmdWord c &&& r.2 ≠ r.1)
    (hop : c.op.toNat = n) (hrow : (cmdWord ⟨BitVec.ofNat 8 n, 0#8, 0#8, 0#8⟩, mask) ∈ opcodeMap) :
    cmdWord c &&& mask ≠ cmdWord ⟨c.op, 0#8, 0#8, 0#8⟩ := by
  have hcode : BitVec.ofNat 8 n = c.op := by rw [← hop, BitVec.ofNat_toNat, BitVec.setWidth_eq]
  rw [← hcode]
  exact hno _ hrow

/-- R111: every branch of the decoder but the last has the mask of its row. -/
theorem decodeHead_eq_none_of_no_row {c : CmdWord} (hno : ∀ r ∈ opcodeMap, cmdWord c &&& r.2 ≠ r.1) :
    decodeHead c = none := by
  unfold decodeHead
  split
  case h_40 => rfl
  all_goals
    rename_i hop
    simp only [plain_eq_none_iff, bySel_eq_none_iff, bySel2_eq_none_iff, byBoth_eq_none_iff, bySample_eq_none_iff,
      byFlag_eq_none_iff, bySelFlag_eq_none_iff]
    exact and_mask_ne_of_row hno hop (by decide)

/-- R111: what follows an illegal command word stays on the port. -/
theorem decode_of_no_row {w : Word} (hno : ∀ r ∈ opcodeMap, w &&& r.2 ≠ r.1) (rest : List PortItem) :
    decode (.word w :: rest) = .illegal rest := by
  rw [← cmdWord_cmdFields w] at hno
  rw [decode, decodeHead_eq_none_of_no_row hno]

theorem step_of_illegal {s : State} {rest : List PortItem} (hreset : s.resetIn = false)
    (hdecode : decode s.cmd = .illegal rest) : step s = .next (illegalCommand (s.withCmd rest)) := by
  rw [step, hreset, hdecode]
  rfl

/-- Settles O6: `illegalCommand` is the fault with cause None, taken when the word alone has left the port. -/
theorem illegalCommandWordIsRefused : Obligations.IllegalCommandWordIsRefused := by
  intro s w rest hreset hcmd hno
  have hdecode : decode s.cmd = .illegal rest := hcmd ▸ decode_of_no_row hno rest
  exact ⟨rfl, rfl, step_of_illegal hreset hdecode⟩

end Sys2Proof.Machine
end

section
/-! Command words and the forms of the opcode map, read in both directions (30_encoding.md R101, R102, R104, R106,
R110). -/

namespace Sys2Proof.Machine

/-! ### A form that selects its row -/

section Forms

variable {c : CmdWord} {h h' : Head}

theorem onlyIf_eq_some_iff {ok : Bool} : onlyIf ok h = some h' ↔ ok = true ∧ h = h' := by
  cases ok <;> simp [onlyIf]

/-- R104: an `IMM8` whose upper seven bits are zero is that of its bit 0. -/
theorem eq_flagByte_iff (x : Byte) : x = flagByte (x.getLsbD 0) ↔ x.extractLsb' 1 7 = 0#7 := by
  revert x
  decide

theorem plain_eq_some_iff : plain c h = some h' ↔ c = ⟨c.op, 0#8, 0#8, 0#8⟩ ∧ h = h' := by
  obtain ⟨op, sel, sel2, imm⟩ := c
  simp [plain, onlyIf_eq_some_iff, and_assoc]

theorem bySel_eq_some_iff {k : Byte → Head} :
    bySel c k = some h ↔ c = ⟨c.op, c.sel, 0#8, 0#8⟩ ∧ k c.sel = h := by
  obtain ⟨op, sel, sel2, imm⟩ := c
  simp [bySel, onlyIf_eq_some_iff, and_assoc]

theorem bySel2_eq_some_iff {k : Byte → Head} :
    bySel2 c k = some h ↔ c = ⟨c.op, 0#8, c.sel2, 0#8⟩ ∧ k c.sel2 = h := by
  obtain ⟨op, sel, sel2, imm⟩ := c
  simp [bySel2, onlyIf_eq_some_iff, and_assoc]

theorem byBoth_eq_some_iff {k : Byte → Byte → Head} :
    byBoth c k = some h ↔ c = ⟨c.op, c.sel, c.sel2, 0#8⟩ ∧ k c.sel c.sel2 = h := by
  obtain ⟨op, sel, sel2, imm⟩ := c
  simp [byBoth, onlyIf_eq_some_iff]

theorem bySample_eq_some_iff {k : Byte → Head} :
    bySample c k = some h ↔ c = ⟨c.op, 0#8, 0#8, c.imm⟩ ∧ k c.imm = h := by
  obtain ⟨op, sel, sel2, imm⟩ := c
  simp [bySample, onlyIf_eq_some_iff, and_assoc]

theorem byFlag_eq_some_iff {k : Bool → Head} :
    byFlag c k = some h ↔ c = ⟨c.op, 0#8, 0#8, flagByte (c.imm.getLsbD 0)⟩ ∧ k (c.imm.getLsbD 0) = h := by
  obtain ⟨op, sel, sel2, imm⟩ := c
  simp only [byFlag, onlyIf_eq_some_iff, CmdWord.mk.injEq, eq_flagByte_iff, Bool.and_eq_true, beq_iff_eq, true_and,
    and_assoc]

theorem bySelFlag_eq_some_iff {k : Byte → Bool → Head} :
    bySelFlag c k = some h ↔
      c = ⟨c.op, c.sel, 0#8, flagByte (c.imm.getLsbD 0)⟩ ∧ k c.sel (c.imm.getLsbD 0) = h := by
  obtain ⟨op, sel, sel2, imm⟩ := c
  simp only [bySelFlag, onlyIf_eq_some_iff, CmdWord.mk.injEq, eq_flagByte_iff, Bool.and_eq_true, beq_iff_eq, true_and,
    and_assoc]

theorem byFlag_flagByte (op : Byte) (f : Bool) (k : Bool → Head) :
    byFlag ⟨op, 0#8, 0#8, flagByte f⟩ k = some (k f) := by
  simp [byFlag, onlyIf]

theorem bySelFlag_flagByte (op sel : Byte) (f : Bool) (k : Byte → Bool → Head) :
    bySelFlag ⟨op, sel, 0#8, flagByte f⟩ k = some (k sel f) := by
  simp [bySelFlag, onlyIf]

end Forms

/-! ### What a head reads after its command word -/

/-- R102: the command a head gives and the transfers that bring its operands. -/
inductive OperandsOf : Head → Instr → List PortItem → Prop
  | z (i : Instr) : OperandsOf (.z i) i []
  | a1 (k : Word64 → Instr) (a : Word64) : OperandsOf (.a1 k) (k a) (operandItems a)
  | a2 (k : Word64 → Word64 → Instr) (a b : Word64) : OperandsOf (.a2 k) (k a b) (operandItems a ++ operandItems b)
  | a3 (k : Word64 → Word64 → Word64 → Instr) (a b c : Word64) :
    OperandsOf (.a3 k) (k a b c) (operandItems a ++ operandItems b ++ operandItems c)
  | m1 (k : Word64 → Message → Instr) (n : Word64) (m : Message) :
    OperandsOf (.m1 k) (k n m) (operandItems n ++ [.message (recordOfMessage m)])

/-- R100: what is taken as an operand word is that word's two transfers. -/
theorem takeOperand_eq_some {items rest : List PortItem} {a : Word64} (h : takeOperand items = some (a, rest)) :
    items = operandItems a ++ rest := by
  unfold takeOperand at h
  split at h
  case h_1 lo hi tail =>
    cases h
    have hlo : (hi ++ lo).extractLsb' 0 32 = lo := BitVec.extractLsb'_append_eq_right
    have hhi : (hi ++ lo).extractLsb' 32 32 = hi := BitVec.extractLsb'_append_eq_left
    rw [operandItems, hlo, hhi]
    rfl
  case h_2 => exact absurd h nofun

/-- The operands of a command are read back, and what follows them is left. -/
theorem decodeOperands_of_operandsOf {h : Head} {i : Instr} {ops : List PortItem} (hops : OperandsOf h i ops)
    (rest : List PortItem) : decodeOperands h (ops ++ rest) = .command i rest := by
  cases hops <;> simp [decodeOperands, List.append_assoc]

/-- A command is read only from the transfers of its own operands. -/
theorem operandsOf_of_decodeOperands {h : Head} {i : Instr} {items rest : List PortItem}
    (hdecode : decodeOperands h items = .command i rest) : ∃ ops, OperandsOf h i ops ∧ items = ops ++ rest := by
  unfold decodeOperands at hdecode
  split at hdecode
  case h_1 =>
    cases hdecode
    exact ⟨[], .z _, rfl⟩
  case h_2 =>
    split at hdecode
    · rename_i ha
      cases hdecode
      exact ⟨_, .a1 _ _, takeOperand_eq_some ha⟩
    · cases hdecode
  case h_3 =>
    split at hdecode
    · rename_i ha
      split at hdecode
      · rename_i hb
        cases hdecode
        exact ⟨_, .a2 _ _ _, by rw [takeOperand_eq_some ha, takeOperand_eq_some hb, List.append_assoc]⟩
      · cases hdecode
    · cases hdecode
  case h_4 =>
    split at hdecode
    · rename_i ha
      split at hdecode
      · rename_i hb
        split at hdecode
        · rename_i hc
          cases hdecode
          exact ⟨_, .a3 _ _ _ _, by
            rw [takeOperand_eq_some ha, takeOperand_eq_some hb, takeOperand_eq_some hc, List.append_assoc,
              List.append_assoc]⟩
        · cases hdecode
      · cases hdecode
    · cases hdecode
  case h_5 =>
    split at hdecode
    · rename_i ha
      split at hdecode
      · rename_i hm
        cases hdecode
        exact ⟨_, .m1 _ _ _, by
          rw [takeOperand_eq_some ha, recordOfMessage_of_messageOfRecord hm, List.append_assoc]
          rfl⟩
      · cases hdecode
    · cases hdecode
    · cases hdecode

/-- 93_implementation_defined.md U16: with fewer transfers than the operands need, the command waits. -/
theorem decodeOperands_take_of_operandsOf {h : Head} {i : Instr} {ops : List PortItem} (hops : OperandsOf h i ops)
    {k : Nat} (hk : k < ops.length) : decodeOperands h (ops.take k) = .waiting := by
  cases hops
  case z => exact absurd hk (Nat.not_lt_zero k)
  all_goals
    simp only [operandItems, List.cons_append, List.nil_append, List.length_cons, List.length_nil] at hk ⊢
    interval_cases k <;> rfl

/-- R131: a record among a command's operands is that of a message, and so well formed. -/
theorem messageRecordWf_of_mem_operands {h : Head} {i : Instr} {ops : List PortItem} (hops : OperandsOf h i ops)
    {r : MessageRecord} (hr : .message r ∈ ops) : messageRecordWf r = true := by
  cases hops
  case m1 k n m =>
    have hrecord : r = recordOfMessage m := by simpa [operandItems] using hr
    rw [hrecord, ← messageOfRecord_isSome, messageOfRecord_recordOfMessage]
    rfl
  all_goals simp [operandItems] at hr

/-! ### The rows -/

/-- R110: a command's transfers are a word that selects its row and the operands of that row's format. -/
theorem encode_eq_head_operands (i : Instr) :
    ∃ c h ops, encode i = .word (cmdWord c) :: ops ∧ decodeHead c = some h ∧ OperandsOf h i ops := by
  cases i
  case bfbSetbit b a f =>
    exact ⟨_, _, _, rfl, bySelFlag_flagByte 0x15#8 b f fun b f => .a1 fun a => .bfbSetbit b a f, .a1 _ a⟩
  case bfbAddmsb b f => exact ⟨_, _, _, rfl, bySelFlag_flagByte 0x16#8 b f fun b f => .z (.bfbAddmsb b f), .z _⟩
  case bfbAddlsb b f => exact ⟨_, _, _, rfl, bySelFlag_flagByte 0x17#8 b f fun b f => .z (.bfbAddlsb b f), .z _⟩
  case dgSetactive i f => exact ⟨_, _, _, rfl, bySelFlag_flagByte 0x43#8 i f fun i f => .z (.dgSetactive i f), .z _⟩
  case pcAdd d f => exact ⟨_, _, _, rfl, byFlag_flagByte 0x30#8 f fun f => .a1 fun d => .pcAdd d f, .a1 _ d⟩
  case pcPrime d f => exact ⟨_, _, _, rfl, byFlag_flagByte 0x31#8 f fun f => .a1 fun d => .pcPrime d f, .a1 _ d⟩
  case dgParse d f => exact ⟨_, _, _, rfl, byFlag_flagByte 0x40#8 f fun f => .a1 fun d => .dgParse d f, .a1 _ d⟩
  case rcdParse d f => exact ⟨_, _, _, rfl, byFlag_flagByte 0x50#8 f fun f => .a1 fun d => .rcdParse d f, .a1 _ d⟩
  case bfbInsert => exact ⟨_, _, _, rfl, rfl, .a3 _ _ _ _⟩
  case bfbNewv | bfbExtu | bfbExts => exact ⟨_, _, _, rfl, rfl, .a2 _ _ _⟩
  case mrRepeat => exact ⟨_, _, _, rfl, rfl, .m1 _ _ _⟩
  case csrWr | topSetrate | bfbNew | bfbGetbit | bfbShr | fdSetrate | rcdSetrate | rcdStartfree =>
    exact ⟨_, _, _, rfl, rfl, .a1 _ _⟩
  all_goals exact ⟨_, _, _, rfl, rfl, .z _⟩

theorem op_eq_ofNat {c : CmdWord} {n : Nat} (h : c.op.toNat = n) : c.op = BitVec.ofNat 8 n := by
  rw [← h, BitVec.ofNat_toNat, BitVec.setWidth_eq]

/-- R106, R110: the word that selects a row, then the operands of its format, are the transfers of the command. -/
theorem encode_of_decodeHead {c : CmdWord} {h : Head} {i : Instr} {ops : List PortItem} (hhead : decodeHead c = some h)
    (hops : OperandsOf h i ops) : encode i = .word (cmdWord c) :: ops := by
  unfold decodeHead at hhead
  split at hhead
  case h_40 => cases hhead
  all_goals
    rename_i hop
    simp only [plain_eq_some_iff, bySel_eq_some_iff, bySel2_eq_some_iff, byBoth_eq_some_iff, bySample_eq_some_iff,
      byFlag_eq_some_iff, bySelFlag_eq_some_iff] at hhead
    obtain ⟨hc, rfl⟩ := hhead
    rw [op_eq_ofNat hop] at hc
    rw [hc]
    cases hops
    rfl

end Sys2Proof.Machine
end

section
/-! Decoding and encoding are inverse to each other (30_encoding.md R100 to R113). -/

namespace Sys2Proof.Machine

/-- The decoder at a word that selects a row. -/
theorem decode_of_decodeHead {c : CmdWord} {h : Head} (hhead : decodeHead c = some h) (items : List PortItem) :
    decode (.word (cmdWord c) :: items) = decodeOperands h items := by
  rw [decode, cmdFields_cmdWord, hhead]

/-- A command is read only at a word that selects its row, from the operands of that row's format. -/
theorem decode_eq_command {items rest : List PortItem} {i : Instr} (hdecode : decode items = .command i rest) :
    ∃ c h ops, items = .word (cmdWord c) :: (ops ++ rest) ∧ decodeHead c = some h ∧ OperandsOf h i ops := by
  unfold decode at hdecode
  split at hdecode
  case h_1 | h_2 => cases hdecode
  case h_3 w tail =>
    split at hdecode
    · rename_i h hhead
      obtain ⟨ops, hops, rfl⟩ := operandsOf_of_decodeOperands hdecode
      exact ⟨cmdFields w, h, ops, by rw [cmdWord_cmdFields], hhead, hops⟩
    · cases hdecode

/-- Settles O1: the command word selects the command's row, and its operands are read back. -/
theorem decodeOfEncodeIsTheCommand : Obligations.DecodeOfEncodeIsTheCommand := by
  intro i rest
  obtain ⟨c, h, ops, hencode, hhead, hops⟩ := encode_eq_head_operands i
  rw [hencode, List.cons_append, decode_of_decodeHead hhead, decodeOperands_of_operandsOf hops]

/-- R131: a record that stands for no message is refused where `MR.REPEAT` has its own. -/
theorem decode_mrRepeat_of_ill_formed (e : Byte) (n : Word64) {r : MessageRecord} (rest : List PortItem)
    (hr : messageRecordWf r = false) :
    decode (.word (cmdWord ⟨0x60#8, e, 0#8, 0#8⟩) :: (operandItems n ++ .message r :: rest)) = .illFormedMessage := by
  have hhead : decodeHead ⟨0x60#8, e, 0#8, 0#8⟩ = some (.m1 fun n m => .mrRepeat e n m) := rfl
  have hnone : messageOfRecord r = none := by
    rwa [← Option.not_isSome_iff_eq_none, messageOfRecord_isSome, Bool.not_eq_true]
  rw [decode_of_decodeHead hhead, decodeOperands, takeOperand_operandItems]
  simp only [hnone]

/-- Settles O2: the word that was decoded selects the row of the command, so that it and the operands read are the
command's encoding. -/
theorem decodedTransfersAreTheEncoding : Obligations.DecodedTransfersAreTheEncoding := by
  refine ⟨fun items i rest hdecode => ?_, fun e n m rest hm => decode_mrRepeat_of_ill_formed e n rest hm⟩
  obtain ⟨c, h, ops, rfl, hhead, hops⟩ := decode_eq_command hdecode
  have hencode := encode_of_decodeHead hhead hops
  rw [hencode]
  refine ⟨rfl, fun r hr => messageRecordWf_of_mem_operands hops ?_⟩
  simpa using hr

end Sys2Proof.Machine
end

section
/-! Words of no row, and written-out words (30_encoding.md R106, R110, R111). -/

namespace Sys2Proof.Machine

/-- A row of the opcode map masks all of UNIT and FUNC, and matches zeros elsewhere. -/
theorem opcodeMap_row {r : Word × Word} (hr : r ∈ opcodeMap) :
    (cmdFields r.2).op = 0xFF#8 ∧ r.1 = cmdWord ⟨(cmdFields r.1).op, 0#8, 0#8, 0#8⟩ := by
  have hrows : opcodeMap.Forall fun r =>
      (cmdFields r.2).op = 0xFF#8 ∧ r.1 = cmdWord ⟨(cmdFields r.1).op, 0#8, 0#8, 0#8⟩ := by
    simp [opcodeMap, cmdFields, cmdWord]
  exact List.forall_iff_forall_mem.mp hrows r hr

/-- No two rows have the same operation code. -/
theorem opcodeMap_row_unique {r r' : Word × Word} (hr : r ∈ opcodeMap) (hr' : r' ∈ opcodeMap)
    (hop : (cmdFields r.1).op = (cmdFields r'.1).op) : r = r' := by
  have hnodup : (opcodeMap.map fun r => (cmdFields r.1).op).Nodup := by decide +kernel
  exact List.inj_on_of_nodup_map hnodup hr hr' hop

/-- A word that matches a row has the row's operation code. -/
theorem op_of_match {c : CmdWord} {r : Word × Word} (hr : r ∈ opcodeMap) (hmatch : cmdWord c &&& r.2 = r.1) :
    (cmdFields r.1).op = c.op := by
  obtain ⟨hmask, hzeros⟩ := opcodeMap_row hr
  rw [hzeros, ← cmdWord_cmdFields r.2, cmdWord_and_cmdWord, cmdWord_inj, CmdWord.mk.injEq, hmask, and_ones] at hmatch
  exact hmatch.1.symm

/-- The row that matches a word is the one of its operation code. -/
theorem match_row_of_op {c : CmdWord} {r : Word × Word} {n : Nat} {mask : Word} (hr : r ∈ opcodeMap)
    (hmatch : cmdWord c &&& r.2 = r.1) (hop : c.op.toNat = n)
    (hrow : (cmdWord ⟨BitVec.ofNat 8 n, 0#8, 0#8, 0#8⟩, mask) ∈ opcodeMap) :
    cmdWord c &&& mask = cmdWord ⟨c.op, 0#8, 0#8, 0#8⟩ := by
  rw [← op_eq_ofNat hop] at hrow
  have hsame : r = (cmdWord ⟨c.op, 0#8, 0#8, 0#8⟩, mask) :=
    opcodeMap_row_unique hr hrow (by rw [op_of_match hr hmatch, cmdFields_cmdWord])
  rwa [hsame] at hmatch

/-- R106: every word that a row of the opcode map matches selects that row. -/
theorem decodeHead_ne_none_of_row {c : CmdWord} {r : Word × Word} (hr : r ∈ opcodeMap)
    (hmatch : cmdWord c &&& r.2 = r.1) : decodeHead c ≠ none := by
  intro hnone
  unfold decodeHead at hnone
  split at hnone
  case h_40 =>
    have hcode : c.op.toNat ∈ opcodeMap.map fun r => (cmdFields r.1).op.toNat :=
      op_of_match hr hmatch ▸ List.mem_map_of_mem hr
    simp_all [opcodeMap, cmdFields]
  all_goals
    rename_i hop
    simp only [plain_eq_none_iff, bySel_eq_none_iff, bySel2_eq_none_iff, byBoth_eq_none_iff, bySample_eq_none_iff,
      byFlag_eq_none_iff, bySelFlag_eq_none_iff] at hnone
    exact hnone (match_row_of_op hr hmatch hop (by decide))

theorem decodeOperands_ne_illegal (h : Head) (items rest : List PortItem) :
    decodeOperands h items ≠ .illegal rest := by
  unfold decodeOperands
  repeat' split
  all_goals exact nofun

/-- Settles O3: a row that matches the word selects it, and with a row selected the decoder reads operands. -/
theorem illegalWordsAreThoseMatchingNoRow : Obligations.IllegalWordsAreThoseMatchingNoRow := by
  intro w rest
  refine ⟨fun hillegal r hr hmatch => ?_, fun hno => decode_of_no_row hno rest⟩
  rw [← cmdWord_cmdFields w] at hmatch
  obtain ⟨h, hhead⟩ := Option.ne_none_iff_exists'.mp (decodeHead_ne_none_of_row hr hmatch)
  rw [decode, hhead] at hillegal
  exact decodeOperands_ne_illegal h rest rest hillegal

/-- Settles O4: each word is evaluated. -/
theorem writtenOutWordsDecode : Obligations.WrittenOutWordsDecode := by
  unfold Obligations.WrittenOutWordsDecode
  decide

end Sys2Proof.Machine
end

section
/-! The step, by what stands on the CMD port (00_scope.md R8, R9, 60_exceptions.md R346, 70_reset_and_hazards.md
R360). -/

namespace Sys2Proof.Machine

variable {s : State}

theorem step_of_resetIn (hreset : s.resetIn = true) : step s = .next (hardwareReset s) := if_pos hreset

theorem step_of_idle (hreset : s.resetIn = false) (hdecode : decode s.cmd = .idle) : step s = .next s := by
  rw [step, hreset, hdecode]
  rfl

theorem step_of_waiting (hreset : s.resetIn = false) (hdecode : decode s.cmd = .waiting) : step s = .next s := by
  rw [step, hreset, hdecode]
  rfl

theorem step_of_command {i : Instr} {rest : List PortItem} (hreset : s.resetIn = false)
    (hdecode : decode s.cmd = .command i rest) : step s = exec i (s.withCmd rest) := by
  rw [step, hreset, hdecode]
  rfl

/-- Settles O5: `State.withCmd` is the update that the statement writes out. -/
theorem stepRunsTheDecodedCommand : Obligations.StepRunsTheDecodedCommand :=
  fun _ _ _ hreset hdecode => step_of_command hreset hdecode

/-- 93_implementation_defined.md U16: a command waits while only an initial part of its transfers is there, its word
among them. -/
theorem decode_take_encode (i : Instr) {k : Nat} (hpos : 0 < k) (hk : k < (encode i).length) :
    decode ((encode i).take k) = .waiting := by
  obtain ⟨c, h, ops, hencode, hhead, hops⟩ := encode_eq_head_operands i
  obtain ⟨j, rfl⟩ := Nat.exists_eq_add_one.mpr hpos
  rw [hencode] at hk ⊢
  rw [List.take_succ_cons, decode_of_decodeHead hhead]
  exact decodeOperands_take_of_operandsOf hops (Nat.lt_of_succ_lt_succ hk)

/-- Settles O7: an empty port is idle, an initial part of a command waits. -/
theorem noCommandChangesNothing : Obligations.NoCommandChangesNothing := by
  intro s hreset
  refine ⟨fun hcmd => step_of_idle hreset (by rw [hcmd]; rfl), fun i k hk hpos hcmd => step_of_waiting hreset ?_⟩
  rw [hcmd]
  exact decode_take_encode i hpos hk

/-- Settles O8: `hardwareReset` is the statement's next state. -/
theorem hardwareResetLoadsTheResetState : Obligations.HardwareResetLoadsTheResetState :=
  fun _ hreset => step_of_resetIn hreset

end Sys2Proof.Machine
end

section
/-! The invariant, unit by unit: the operations of a unit keep its part (10_state.md R22, R25, R29, R40, 43_group.md
R206). -/

namespace Sys2Proof.Machine

/-! ### BFB registers -/

theorem bufInv_iff {r : Buf} : BufInv r ↔ r.len ≤ 64 ∧ ∀ j, r.len ≤ j → r.bits.getLsbD j = false :=
  ⟨fun h => ⟨h.1, fun _ => h.getLsbD_eq_false⟩, fun ⟨hlen, hbits⟩ => ⟨hlen, Nat.lt_pow_two_of_testBit _ hbits⟩⟩

/-- A store has 64 bits, so only those are to be looked at. -/
theorem bufInv_of_bits {r : Buf} (hlen : r.len ≤ 64) (hbits : ∀ j, j < 64 → r.len ≤ j → r.bits.getLsbD j = false) :
    BufInv r := by
  refine bufInv_iff.mpr ⟨hlen, fun j hj => ?_⟩
  by_cases hj64 : j < 64
  · exact hbits j hj64 hj
  · exact BitVec.getLsbD_of_ge _ _ (not_lt.mp hj64)

theorem bufInv_empty : BufInv ⟨0, 0#64⟩ := by decide

/-- R152, R153: what lies at or above the length is masked. -/
theorem bufInv_masked {n : Nat} (hn : n ≤ 64) (v : BitVec 64) : BufInv ⟨n, v &&& mask n⟩ := by
  refine bufInv_of_bits hn fun j _ hj => ?_
  have hout : ¬j < n := not_lt.mpr hj
  simp [getLsbD_mask, hout]

theorem BufInv.setBit {r : Buf} (h : BufInv r) {p : Nat} (hp : p < 64) (f : Bool) : BufInv (r.setBit p f) := by
  refine bufInv_of_bits (by rw [Buf.setBit_len]; exact max_le h.1 hp) fun j hj hlen => ?_
  rw [Buf.setBit_len] at hlen
  rw [Buf.getLsbD_setBit r p f hj, if_neg (by omega), h.getLsbD_eq_false (by omega)]

theorem BufInv.addMsb {r : Buf} (h : BufInv r) (hlen : r.len ≠ 64) (f : Bool) : BufInv (r.addMsb f) :=
  h.setBit (lt_of_le_of_ne h.1 hlen) f

theorem BufInv.addLsb {r : Buf} (h : BufInv r) (hlen : r.len ≠ 64) (f : Bool) : BufInv (r.addLsb f) := by
  have hle : r.len + 1 ≤ 64 := lt_of_le_of_ne h.1 hlen
  refine bufInv_of_bits hle fun j hj hge => ?_
  obtain ⟨k, rfl⟩ : ∃ k, j = k + 1 := Nat.exists_eq_add_one.mpr (Nat.lt_of_lt_of_le (Nat.succ_pos _) hge)
  rw [Buf.getLsbD_addLsb_succ r f (by omega), h.getLsbD_eq_false (Nat.le_of_succ_le_succ hge)]

theorem BufInv.insert {r : Buf} (h : BufInv r) {p n : Nat} (hfield : p + n < 64) (v : BitVec 64) :
    BufInv (r.insert p n v) := by
  refine bufInv_of_bits (by rw [Buf.insert_len]; exact max_le h.1 hfield.le) fun j hj hlen => ?_
  rw [Buf.insert_len] at hlen
  rw [Buf.getLsbD_insert r p n v hj, if_neg (by omega), h.getLsbD_eq_false (by omega)]

theorem BufInv.shiftRight {r : Buf} (h : BufInv r) (n : Nat) : BufInv (r.shiftRight n) := by
  refine bufInv_iff.mpr ⟨(Nat.sub_le ..).trans h.1, fun j hj => ?_⟩
  have hlen : r.len - n ≤ j := hj
  rw [Buf.getLsbD_shiftRight, h.getLsbD_eq_false (by omega)]

variable {s : State}

theorem BankInv.buf (h : BankInv s) (b : Nat) : BufInv (s.buf b) := by
  rw [State.buf, List.getD_eq_getElem?_getD]
  cases hget : s.bank[b]? with
  | none => exact bufInv_empty
  | some r => exact h.2 r (List.mem_of_getElem? hget)

theorem BankInv.setBuf (h : BankInv s) (b : Nat) {r : Buf} (hr : BufInv r) : BankInv (s.setBuf b r) := by
  obtain ⟨hlen, hbufs⟩ := h
  refine ⟨(List.length_set ..).trans hlen, fun r' hr' => ?_⟩
  obtain hold | rfl := List.mem_or_eq_of_mem_set hr'
  · exact hbufs r' hold
  · exact hr

/-! ### The group table -/

theorem groupInv_newGroup (d : F64) (m : Bool) : GroupInv (newGroup d m) :=
  ⟨fun hzero => absurd hzero Nat.one_ne_zero, fun _ => rfl⟩

theorem groupInv_newPrimer (d : F64) (m : Bool) : GroupInv (newPrimer d m) :=
  ⟨fun _ => ⟨rfl, rfl, rfl, rfl⟩, nofun⟩

theorem groupInv_accept {g : Group} (h : GroupInv g) (d : F64) : GroupInv (g.accept d) :=
  ⟨fun hzero => absurd hzero (Nat.succ_ne_zero _), h.2⟩

theorem PcInv.pcAppend (h : PcInv s) {g : Group} (hg : GroupInv g) : PcInv (pcAppend g s).2 := by
  by_cases hfull : s.pc.groups.length = s.params.pcNgroups
  · rw [pcAppend_of_full g hfull]
    exact h
  · rw [pcAppend_of_room g hfull]
    obtain ⟨hlen, hgroups⟩ := h
    refine ⟨?_, fun g' hg' => ?_⟩
    · have hroom : s.pc.groups.length + 1 ≤ s.params.pcNgroups := lt_of_le_of_ne hlen hfull
      exact List.length_append.trans_le hroom
    · obtain hold | hnew := List.mem_append.mp hg'
      · exact hgroups g' hold
      · exact List.mem_singleton.mp hnew ▸ hg

theorem PcInv.pcAdd (h : PcInv s) (d : F64) (m : Bool) : PcInv (pcAdd d m s).2 := by
  cases hfind : firstMatch s.csr.pcTolerance d m s.pc.groups with
  | none =>
    rw [pcAdd_of_no_match (firstMatch_eq_none_iff.mp hfind)]
    exact h.pcAppend (groupInv_newGroup d m)
  | some k =>
    obtain ⟨hlt, -⟩ := List.findIdx?_eq_some_iff_getElem.mp hfind
    rw [pcAdd_of_firstMatch hfind (List.getElem?_eq_getElem hlt)]
    obtain ⟨hlen, hgroups⟩ := h
    refine ⟨(List.length_set ..).trans_le hlen, fun g hg => ?_⟩
    obtain hold | rfl := List.mem_or_eq_of_mem_set hg
    · exact hgroups g hold
    · exact groupInv_accept (hgroups _ (List.getElem_mem hlt)) d

theorem PcInv.pcPrime (h : PcInv s) (d : F64) (m : Bool) : PcInv (pcPrime d m s).2 := by
  cases hfind : firstMatch s.csr.pcTolerance d m s.pc.groups with
  | none =>
    rw [pcPrime_of_no_match (firstMatch_eq_none_iff.mp hfind)]
    exact h.pcAppend (groupInv_newPrimer d m)
  | some k =>
    rw [pcPrime_of_firstMatch hfind]
    exact h

/-! ### The membership lists -/

theorem mem_leaveList {l : List Nat} {i j : Nat} : j ∈ leaveList l i ↔ j ∈ l ∧ j ≠ i := by
  simp [leaveList]

theorem mem_joinList {l : List Nat} {i j : Nat} : j ∈ joinList l i ↔ j ∈ l ∨ j = i := by
  rw [joinList_eq_ite]
  split
  · simp_all
  · simp

theorem nodup_leaveList {l : List Nat} (h : l.Nodup) (i : Nat) : (leaveList l i).Nodup := h.filter _

theorem nodup_joinList {l : List Nat} (h : l.Nodup) (i : Nat) : (joinList l i).Nodup := by
  rw [joinList_eq_ite]
  split
  · exact h
  · exact h.append (List.nodup_singleton i) (List.disjoint_singleton.mpr ‹_›)

theorem joinList_disjoint_leaveList {l l' : List Nat} (h : ∀ j ∈ l, j ∉ l') (i : Nat) :
    ∀ j ∈ joinList l i, j ∉ leaveList l' i := by
  intro j hj hj'
  obtain ⟨hmem, hne⟩ := mem_leaveList.mp hj'
  obtain hold | hnew := mem_joinList.mp hj
  · exact h j hold hmem
  · exact hne hnew

theorem joinList_lt {l : List Nat} {i n : Nat} (h : ∀ j ∈ l, j < n) (hi : i < n) : ∀ j ∈ joinList l i, j < n := by
  intro j hj
  obtain hold | rfl := mem_joinList.mp hj
  · exact h j hold
  · exact hi

theorem leaveList_lt {l : List Nat} {n : Nat} (h : ∀ j ∈ l, j < n) (i : Nat) : ∀ j ∈ leaveList l i, j < n :=
  fun j hj => h j (mem_leaveList.mp hj).1

/-- R203: from the other list to the chosen one. -/
theorem DgInv.setActive (h : DgInv s) {i : Nat} (hi : i < s.params.ndec) (f : Bool) :
    DgInv { s with dg := s.dg.setActive i f } := by
  obtain ⟨hactive, hpassive, hdisjoint, hactiveLt, hpassiveLt⟩ := h
  cases f with
  | true =>
    exact ⟨nodup_joinList hactive i, nodup_leaveList hpassive i, joinList_disjoint_leaveList hdisjoint i,
      joinList_lt hactiveLt hi, leaveList_lt hpassiveLt i⟩
  | false =>
    have hdisjoint' : ∀ j ∈ s.dg.passive, j ∉ s.dg.active := fun j hp ha => hdisjoint j ha hp
    exact ⟨nodup_leaveList hactive i, nodup_joinList hpassive i,
      fun j ha hp => joinList_disjoint_leaveList hdisjoint' i j hp ha, leaveList_lt hactiveLt i,
      joinList_lt hpassiveLt hi⟩

/-- R201: only a slot in neither list joins. -/
theorem DgInv.add (h : DgInv s) {i : Nat} (hi : i < s.params.ndec) : DgInv { s with dg := s.dg.add i } := by
  cases hmember : s.dg.member i with
  | true =>
    rw [Dg.add_of_member hmember]
    exact h
  | false =>
    have hout : ¬(i ∈ s.dg.active ∨ i ∈ s.dg.passive) := by rw [← Dg.member_iff, hmember]; simp
    have hactive : Dg.add s.dg i = s.dg.setActive i true := by
      rw [Dg.add_of_not_member hmember, Dg.setActive, if_pos rfl, joinList_eq_ite, leaveList_of_notMem (by tauto),
        if_neg (by tauto)]
    rw [hactive]
    exact h.setActive hi true

/-- R202: a list that a slot leaves only shrinks. -/
theorem DgInv.remove (h : DgInv s) (i : Nat) : DgInv { s with dg := s.dg.remove i } := by
  obtain ⟨hactive, hpassive, hdisjoint, hactiveLt, hpassiveLt⟩ := h
  by_cases hi : i ∈ s.dg.active
  · rw [Dg.remove_of_mem_active hi]
    exact ⟨hactive.filter _, hpassive, fun j hj => hdisjoint j (List.mem_of_mem_filter hj),
      fun j hj => hactiveLt j (List.mem_of_mem_filter hj), hpassiveLt⟩
  · rw [Dg.remove_of_notMem_active hi]
    exact ⟨hactive, hpassive.filter _, fun j hj hj' => hdisjoint j hj (List.mem_of_mem_filter hj'), hactiveLt,
      fun j hj => hpassiveLt j (List.mem_of_mem_filter hj)⟩

/-! ### RCD -/

theorem RcdInv.endOfMessage (h : RcdInv s) : RcdInv (endOfMessage s) := by
  obtain ⟨hrate, hlevel, hbudget, hsamples, hpulses, hoffsets, -, -⟩ := h
  exact ⟨hrate, hlevel, hbudget, hsamples, hpulses, hoffsets, fun _ => rfl, nofun⟩

theorem RcdInv.startCapture (h : RcdInv s) (f : Bool) {n : Nat} (hn : n ≤ s.params.rcdSampleCap) :
    RcdInv (startCapture f n s) := by
  obtain ⟨hrate, hlevel, -⟩ := h
  exact ⟨hrate, hlevel, hn, Nat.zero_le _, Nat.zero_le _, nofun, nofun, fun _ => .inl rfl⟩

theorem RcdInv.recordPulse (h : RcdInv s) (hroom : s.rcd.pulses.length ≠ s.params.rcdPulseCap) (d : F64) :
    RcdInv (recordPulse d s) := by
  obtain ⟨hrate, hlevel, hbudget, hsamples, hpulses, hoffsets, hidle, hcapturing⟩ := h
  have hlen : s.rcd.pulses.length + 1 ≤ s.params.rcdPulseCap := lt_of_le_of_ne hpulses hroom
  refine ⟨hrate, hlevel, hbudget, hsamples, List.length_append.trans_le hlen, fun p hp => ?_, hidle, hcapturing⟩
  obtain hold | hnew := List.mem_append.mp hp
  · exact hoffsets p hold
  · exact List.mem_singleton.mp hnew ▸ le_refl s.rcd.samples.length

theorem RcdInv.rcdParse (h : RcdInv s) (d : F64) (m : Bool) : RcdInv (rcdParse d m s) := by
  cases hmode : s.rcd.mode with
  | idle =>
    rw [rcdParse_of_idle hmode]
    split
    · exact h.startCapture false (min_le_right _ _)
    · exact h
  | capturing =>
    by_cases hgo : GoesOn d s
    · rw [rcdParse_of_goesOn hmode hgo]
      split
      · exact h.endOfMessage
      · exact h.recordPulse ‹_› d
    · rw [rcdParse_of_gap hmode hgo]
      split
      · exact h.endOfMessage
      · exact h

/-- R280: no sample is further than `LEVEL_FULL` from mid-scale. -/
theorem magnitude_le (smp : Byte) : magnitude smp ≤ Config.levelFull := by
  have hlt : smp.toNat < 256 := smp.isLt
  simp only [magnitude, Config.levelFull]
  omega

theorem RcdInv.levelRise (h : RcdInv s) (smp : Byte) : RcdInv (levelRise smp s) := by
  obtain ⟨hrate, hlevel, hrest⟩ := h
  exact ⟨hrate, max_le hlevel (magnitude_le smp), hrest⟩

theorem RcdInv.levelReport (h : RcdInv s) : RcdInv (levelReport s) := by
  unfold Machine.levelReport
  split
  · obtain ⟨hrate, hlevel, hrest⟩ := h
    exact ⟨hrate, (Nat.sub_le _ _).trans hlevel, hrest⟩
  · exact h

/-- R279: a recorded sample is the first of its capture or still within the budget, and one that reaches the budget
ends the message. -/
theorem RcdInv.recordSample (h : RcdInv s) (smp : Byte) : RcdInv (recordSample smp s) := by
  cases hmode : s.rcd.mode with
  | idle =>
    rw [recordSample_of_idle hmode]
    exact h
  | capturing =>
    rw [recordSample_of_capturing hmode]
    obtain ⟨hrate, hlevel, hbudget, -, hpulses, hoffsets, hidle, hcapturing⟩ := h
    have hgrown : (s.rcd.samples ++ [smp]).length = s.rcd.samples.length + 1 := List.length_append
    have hsamples : (s.rcd.samples ++ [smp]).length ≤ max s.rcd.budget 1 := by
      obtain hnil | hlt := hcapturing hmode
      · simp [hnil]
      · rw [hgrown]
        exact le_max_of_le_left hlt
    have hshown : ∀ p ∈ s.rcd.pulses, p.offset ≤ (s.rcd.samples ++ [smp]).length := fun p hp =>
      (hoffsets p hp).trans (hgrown ▸ Nat.le_succ _)
    split
    · exact ⟨hrate, hlevel, hbudget, hsamples, hpulses, hshown, fun _ => rfl, nofun⟩
    · rename_i hwithin
      exact ⟨hrate, hlevel, hbudget, hsamples, hpulses, hshown, hidle,
        fun _ => .inr (hgrown ▸ Nat.lt_of_not_le hwithin)⟩

theorem RcdInv.rcdSample (h : RcdInv s) (smp : Byte) : RcdInv (rcdSample smp s) :=
  ((h.levelRise smp).levelReport).recordSample smp

/-! ### Operands, history and CSRs -/

theorem toNat_le_of_inRange {a : Word64} {n : Nat} (h : inRange a 0 n = true) : a.toNat ≤ n := by
  obtain ⟨hlo, hhi⟩ := inRange_iff.mp h
  rw [toInt_eq_toNat_of_nonneg hlo] at hhi
  exact Int.ofNat_le.mp hhi

theorem toNat_le_of_inRange_one {a : Word64} {n : Nat} (h : inRange a 1 n = true) : a.toNat ≤ n := by
  obtain ⟨hlo, hhi⟩ := inRange_iff.mp h
  exact toNat_le_of_inRange (inRange_iff.mpr ⟨by omega, hhi⟩)

theorem field_lt_of_fieldOk {a l : Word64} (h : fieldOk a l = true) : a.toNat + l.toNat < 64 := by
  have hfield := fieldOk_iff.mp h
  obtain ⟨ha, hl, -⟩ := hfield.toInt_eq_toNat
  obtain ⟨-, -, hsum⟩ := hfield
  omega

theorem rate_lt_of_rateOk {a : Word64} (h : rateOk a = true) : a.toNat < 2 ^ 31 := by
  obtain ⟨hlo, hhi⟩ := rateOk_iff.mp h
  have hnat := toInt_eq_toNat_of_nonneg (a := a) (by omega)
  omega

/-- R225: the depth of the history is kept. -/
theorem length_shiftHist (smp : Byte) (hist : List Byte) : (shiftHist smp hist).length = hist.length := by
  simp [shiftHist]

/-- R312: a store reads back, and leaves every other writable CSR alone. -/
theorem csrValue_csrStore {c : CsrName} (hc : c ∈ writableCsrs) (c' : CsrName) (a : Word64) (s : State) :
    csrValue { s with csr := csrStore c' a s.csr } c = if c = c' then a else csrValue s c := by
  cases c
  case status | fdRate | fdPushSamples | pcUsed | rcdRate | rcdLevel | rcdNsamples | rcdNpulses =>
    exact absurd hc (by decide)
  all_goals cases c' <;> rfl

theorem csrValue_of_csr_eq {t : State} {c : CsrName} (hc : c ∈ writableCsrs) (hcsr : t.csr = s.csr) :
    csrValue t c = csrValue s c := by
  cases c
  case status | fdRate | fdPushSamples | pcUsed | rcdRate | rcdLevel | rcdNsamples | rcdNpulses =>
    exact absurd hc (by decide)
  all_goals simp only [csrValue, hcsr]

theorem CsrInv.of_csr_eq {t : State} (h : CsrInv s) (hparams : t.params = s.params) (hcsr : t.csr = s.csr) :
    CsrInv t := by
  intro c hc
  rw [hparams, csrValue_of_csr_eq hc hcsr]
  exact h c hc

theorem CsrInv.store (h : CsrInv s) {c : CsrName} {a : Word64} (hlegal : csrLegal s.params c a = true) :
    CsrInv { s with csr := csrStore c a s.csr } := by
  intro c' hc'
  rw [csrValue_csrStore hc']
  split
  · rename_i hsame
    exact hsame ▸ hlegal
  · exact h c' hc'

end Sys2Proof.Machine
end

section
/-! The invariant of the PPC at reset and under the updates and the shared operations (10_state.md R60, 48_system.md
R316, R317). -/

namespace Sys2Proof.Machine

/-- R60: every CSR is legal at reset; the flank length of 3 is the one that a parameter bounds. -/
theorem csrLegal_resetWith {p : Params} (hhist : 3 ≤ p.fdHistMax) {c : CsrName} (hc : c ∈ writableCsrs) :
    csrLegal p c (csrValue (State.resetWith p) c) = true := by
  cases c
  case status | fdRate | fdPushSamples | pcUsed | rcdRate | rcdLevel | rcdNsamples | rcdNpulses =>
    exact absurd hc (by decide)
  all_goals simp only [csrLegal, csrValue, State.resetWith, Csr.reset]
  case fdFlankLength =>
    have hthree : (3#64).toInt = 3 := rfl
    rw [inRange_iff, hthree]
    omega
  all_goals decide +kernel

/-- R60: the reset state has the invariant for all parameters in the ranges of 00_scope.md R7. -/
theorem ppcInv_resetWith {p : Params} (hparams : ParamsInv p) : PpcInv (State.resetWith p) := by
  obtain ⟨hnbuf, hhist, hndec, hnenc, hnsink, hgroups, hsamples, hpulses⟩ := hparams
  have hbank : BankInv (State.resetWith p) :=
    ⟨List.length_replicate, fun r hr => List.eq_of_mem_replicate hr ▸ bufInv_empty⟩
  have htargets : TargetInv (State.resetWith p) :=
    ⟨List.length_replicate, fun k hk => List.eq_of_mem_replicate hk ▸ hnsink.1, hnsink.1⟩
  have hrcd : RcdInv (State.resetWith p) :=
    ⟨Nat.two_pow_pos 31, Nat.zero_le _, Nat.zero_le _, Nat.zero_le _, Nat.zero_le _, nofun, fun _ => rfl, nofun⟩
  have hcsr : CsrInv (State.resetWith p) := fun c hc => csrLegal_resetWith hhist.1 hc
  exact ⟨⟨hnbuf, hhist, hndec, hnenc, hnsink, hgroups, hsamples, hpulses⟩, hbank,
    ⟨List.length_replicate, Nat.two_pow_pos 31⟩, ⟨Nat.zero_le _, nofun⟩,
    ⟨List.nodup_nil, List.nodup_nil, nofun, nofun, nofun⟩, htargets, hrcd, hcsr, rfl⟩

/-- Settles O10: the defaults of 00_scope.md R7 are in its ranges. -/
theorem invariantHoldsAtReset : Obligations.InvariantHoldsAtReset :=
  ppcInv_resetWith ⟨by decide, by decide, by decide, by decide, by decide, by decide, by decide, by decide⟩

variable {s : State}

/-! ### The parts -/

theorem PpcInv.target_lt (h : PpcInv s) : s.rcd.target < s.params.nsink := by
  obtain ⟨-, -, -, -, -, ⟨-, -, htarget⟩, -⟩ := h
  exact htarget

theorem PpcInv.rcdInv (h : PpcInv s) : RcdInv s := by
  obtain ⟨-, -, -, -, -, -, hrcd, -⟩ := h
  exact hrcd

theorem PpcInv.pcInv (h : PpcInv s) : PcInv s := by
  obtain ⟨-, -, -, hpc, -⟩ := h
  exact hpc

theorem PpcInv.dgInv (h : PpcInv s) : DgInv s := by
  obtain ⟨-, -, -, -, hdg, -⟩ := h
  exact hdg

theorem PpcInv.csrInv (h : PpcInv s) : CsrInv s := by
  obtain ⟨-, -, -, -, -, -, -, hcsr, -⟩ := h
  exact hcsr

theorem PpcInv.buf (h : PpcInv s) (b : Nat) : BufInv (s.buf b) := by
  obtain ⟨-, hbank, -⟩ := h
  exact hbank.buf b

theorem PpcInv.fdInv (h : PpcInv s) : FdInv s := by
  obtain ⟨-, -, hfd, -⟩ := h
  exact hfd

/-! ### Updates of one unit -/

theorem PpcInv.raise (h : PpcInv s) {st : Status} {c : Cause} (hfit : causeFits st c = true) :
    PpcInv (raise st c s) := by
  obtain ⟨hparams, hbank, hfd, hpc, hdg, htargets, hrcd, hcsr, -⟩ := h
  exact ⟨hparams, hbank, hfd, hpc, hdg, htargets, hrcd, hcsr.of_csr_eq rfl rfl, hfit⟩

/-- What the ports hold is free in the invariant. -/
theorem PpcInv.with_ports (h : PpcInv s) (cmd : List PortItem) (resetIn : Bool) (dec : List (List DecAnswer))
    (enc : List (List EncAnswer)) (out : List Output) :
    PpcInv { s with cmd := cmd, resetIn := resetIn, decAnswers := dec, encAnswers := enc, out := out } := by
  obtain ⟨hparams, hbank, hfd, hpc, hdg, htargets, hrcd, hcsr, hfit⟩ := h
  exact ⟨hparams, hbank, hfd, hpc, hdg, htargets, hrcd, hcsr.of_csr_eq rfl rfl, hfit⟩

theorem PpcInv.setBuf (h : PpcInv s) (b : Nat) {r : Buf} (hr : BufInv r) : PpcInv (s.setBuf b r) := by
  obtain ⟨hparams, hbank, hfd, hpc, hdg, htargets, hrcd, hcsr, hfit⟩ := h
  exact ⟨hparams, hbank.setBuf b hr, hfd, hpc, hdg, htargets, hrcd, hcsr.of_csr_eq rfl rfl, hfit⟩

theorem PpcInv.with_fd (h : PpcInv s) {f : Fd} (hfd : FdInv { s with fd := f }) : PpcInv { s with fd := f } := by
  obtain ⟨hparams, hbank, -, hpc, hdg, htargets, hrcd, hcsr, hfit⟩ := h
  exact ⟨hparams, hbank, hfd, hpc, hdg, htargets, hrcd, hcsr.of_csr_eq rfl rfl, hfit⟩

theorem PpcInv.with_pc (h : PpcInv s) {p : Pc} (hpc : PcInv { s with pc := p }) : PpcInv { s with pc := p } := by
  obtain ⟨hparams, hbank, hfd, -, hdg, htargets, hrcd, hcsr, hfit⟩ := h
  exact ⟨hparams, hbank, hfd, hpc, hdg, htargets, hrcd, hcsr.of_csr_eq rfl rfl, hfit⟩

theorem PpcInv.with_dg (h : PpcInv s) {g : Dg} (hdg : DgInv { s with dg := g }) : PpcInv { s with dg := g } := by
  obtain ⟨hparams, hbank, hfd, hpc, -, htargets, hrcd, hcsr, hfit⟩ := h
  exact ⟨hparams, hbank, hfd, hpc, hdg, htargets, hrcd, hcsr.of_csr_eq rfl rfl, hfit⟩

theorem PpcInv.with_rcd (h : PpcInv s) {r : Rcd} (out : List Output) (hrcd : RcdInv { s with rcd := r })
    (htarget : r.target < s.params.nsink) : PpcInv { s with rcd := r, out := out } := by
  obtain ⟨hparams, hbank, hfd, hpc, hdg, ⟨hlen, htargets, -⟩, -, hcsr, hfit⟩ := h
  exact ⟨hparams, hbank, hfd, hpc, hdg, ⟨hlen, htargets, htarget⟩, hrcd, hcsr.of_csr_eq rfl rfl, hfit⟩

theorem PpcInv.with_csr (h : PpcInv s) {r : Csr} (hcsr : CsrInv { s with csr := r }) : PpcInv { s with csr := r } := by
  obtain ⟨hparams, hbank, hfd, hpc, hdg, htargets, hrcd, -, hfit⟩ := h
  exact ⟨hparams, hbank, hfd, hpc, hdg, htargets, hrcd, hcsr, hfit⟩

theorem PpcInv.with_fdRate (h : PpcInv s) {n : Nat} (hn : n < 2 ^ 31) :
    PpcInv { s with fd := { s.fd with rate := n } } :=
  h.with_fd ⟨h.fdInv.1, hn⟩

theorem PpcInv.with_rcdRate (h : PpcInv s) {n : Nat} (hn : n < 2 ^ 31) :
    PpcInv { s with rcd := { s.rcd with rate := n } } :=
  h.with_rcd _ ⟨hn, h.rcdInv.2⟩ h.target_lt

/-! ### The `setTarget` calls, a pulse and a sample -/

theorem PpcInv.callSetTarget (h : PpcInv s) {k : Nat} (hk : k < s.params.nsink) (i : Nat) :
    PpcInv (callSetTarget k s i) := by
  obtain ⟨hparams, hbank, hfd, hpc, hdg, ⟨hlen, htargets, htarget⟩, hrcd, hcsr, hfit⟩ := h
  refine ⟨hparams, hbank, hfd, hpc, hdg, ⟨(List.length_set ..).trans hlen, fun k' hk' => ?_, htarget⟩, hrcd,
    hcsr.of_csr_eq rfl rfl, hfit⟩
  obtain hold | rfl := List.mem_or_eq_of_mem_set hk'
  · exact htargets k' hold
  · exact hk

theorem PpcInv.foldl_callSetTarget (h : PpcInv s) {k : Nat} (hk : k < s.params.nsink) (l : List Nat) :
    PpcInv (l.foldl (Machine.callSetTarget k) s) := by
  induction l generalizing s with
  | nil => exact h
  | cons i r ih => exact ih (h.callSetTarget hk i) hk

theorem PpcInv.dgParse (h : PpcInv s) (d : F64) (m : Bool) : PpcInv (dgParse d m s).2 := by
  obtain ⟨_, _, hframe, -⟩ := dgParse_frame d m s
  rw [hframe]
  exact h.with_ports ..

theorem PpcInv.rcdParse (h : PpcInv s) (d : F64) (m : Bool) : PpcInv (rcdParse d m s) := by
  have hrcd := h.rcdInv.rcdParse d m
  obtain ⟨-, -, -, htarget⟩ := rcdParse_keeps d m s
  obtain ⟨r, mid, hframe, -⟩ := rcdParse_frame d m s
  rw [hframe] at hrcd htarget ⊢
  exact h.with_rcd _ hrcd (htarget.trans_lt h.target_lt)

theorem PpcInv.pcAdd (h : PpcInv s) (d : F64) (m : Bool) : PpcInv (pcAdd d m s).2 := by
  have hpc := h.pcInv.pcAdd d m
  obtain ⟨p, hframe⟩ := pcAdd_frame d m s
  rw [hframe] at hpc ⊢
  exact h.with_pc hpc

theorem PpcInv.pcPrime (h : PpcInv s) (d : F64) (m : Bool) : PpcInv (pcPrime d m s).2 := by
  have hpc := h.pcInv.pcPrime d m
  obtain ⟨p, hframe⟩ := pcPrime_frame d m s
  rw [hframe] at hpc ⊢
  exact h.with_pc hpc

/-- What a part that a ROUTE bit enables does, or nothing, keeps what both keep. -/
theorem ppcInv_enabled {en : Bool} {t : State} (h : PpcInv s) (ht : PpcInv t) : PpcInv (if en then t else s) := by
  cases en
  · exact h
  · exact ht

theorem PpcInv.emitPulse (h : PpcInv s) (d : F64) (m : Bool) : PpcInv (emitPulse d m s) := by
  have htrace : PpcInv (tracePulse d m s) := h.with_ports ..
  have hdg : PpcInv (fanDg d m (tracePulse d m s)) := ppcInv_enabled htrace (htrace.dgParse d m)
  have hrcd : PpcInv (fanRcd d m (fanDg d m (tracePulse d m s))) := ppcInv_enabled hdg (hdg.rcdParse d m)
  exact ppcInv_enabled hrcd (hrcd.pcAdd d m)

/-- FD's count, direction and pushed bit are free in the invariant. -/
theorem PpcInv.advanced (h : PpcInv s) (smp : Byte) (cnt : Nat) (dir : Dir) (pushed : Bool) :
    PpcInv { s with fd := ⟨shiftHist smp s.fd.hist, cnt, dir, pushed, s.fd.rate⟩ } := by
  obtain ⟨hlen, hrate⟩ := h.fdInv
  exact h.with_fd ⟨(length_shiftHist ..).trans hlen, hrate⟩

theorem PpcInv.fdSample (h : PpcInv s) (smp : Byte) : PpcInv (fdSample smp s) := by
  unfold Machine.fdSample
  split
  · exact (h.advanced smp 0 _ false).emitPulse _ _
  · split
    · exact ((h.advanced smp 0 _ true).emitPulse _ _).emitPulse _ _
    · exact h.advanced smp _ _ _

/-- 46_rawcapture.md R279: a recorded sample leaves RCD's pulses and target alone. -/
theorem recordSample_keeps (smp : Byte) (s : State) :
    (recordSample smp s).rcd.pulses = s.rcd.pulses ∧ (recordSample smp s).rcd.target = s.rcd.target := by
  cases hmode : s.rcd.mode with
  | idle =>
    rw [recordSample_of_idle hmode]
    exact ⟨rfl, rfl⟩
  | capturing =>
    rw [recordSample_of_capturing hmode]
    split <;> exact ⟨rfl, rfl⟩

/-- 46_rawcapture.md R278: a sample leaves RCD's pulses and target alone. -/
theorem rcdSample_keeps (smp : Byte) (s : State) :
    (rcdSample smp s).rcd.pulses = s.rcd.pulses ∧ (rcdSample smp s).rcd.target = s.rcd.target := by
  have hrecord := recordSample_keeps smp (levelReport (levelRise smp s))
  obtain ⟨_, _, _, hlevel, -⟩ := level_frame smp s
  rw [rcdSample]
  rwa [hlevel] at hrecord ⊢

theorem PpcInv.rcdSample (h : PpcInv s) (smp : Byte) : PpcInv (rcdSample smp s) := by
  have hrcd := h.rcdInv.rcdSample smp
  obtain ⟨-, htarget⟩ := rcdSample_keeps smp s
  obtain ⟨r, mid, hframe, -⟩ := rcdSample_frame smp s
  rw [hframe] at hrcd htarget ⊢
  exact h.with_rcd _ hrcd (htarget.trans_lt h.target_lt)

theorem PpcInv.topSample (h : PpcInv s) (smp : Byte) : PpcInv (topRcd smp (topFd smp s)) := by
  have hfd : PpcInv (topFd smp s) := ppcInv_enabled h (h.fdSample smp)
  exact ppcInv_enabled hfd (hfd.rcdSample smp)

/-! ### What a pulse does to RCD's samples -/

/-- RCD's samples are as they were, or the start of a capture has emptied them. -/
def SamplesKeptOrEmptied (s t : State) : Prop := t.rcd.samples = s.rcd.samples ∨ t.rcd.samples = []

theorem SamplesKeptOrEmptied.trans {s t u : State} (h : SamplesKeptOrEmptied s t) (h' : SamplesKeptOrEmptied t u) :
    SamplesKeptOrEmptied s u := by
  obtain hkept | hempty := h'
  · rwa [SamplesKeptOrEmptied, hkept]
  · exact .inr hempty

theorem rcdParse_samples (d : F64) (m : Bool) (s : State) : SamplesKeptOrEmptied s (rcdParse d m s) := by
  cases hmode : s.rcd.mode with
  | idle =>
    rw [rcdParse_of_idle hmode]
    split
    · exact .inr rfl
    · exact .inl rfl
  | capturing =>
    by_cases hgo : GoesOn d s
    · rw [rcdParse_of_goesOn hmode hgo]
      split <;> exact .inl rfl
    · rw [rcdParse_of_gap hmode hgo]
      split <;> exact .inl rfl

@[simp] theorem fanDg_rcd (d : F64) (m : Bool) (s : State) : (fanDg d m s).rcd = s.rcd := by
  unfold fanDg
  split
  · obtain ⟨_, _, hparse, -⟩ := dgParse_frame d m s
    rw [hparse]
  · rfl

@[simp] theorem fanPc_rcd (d : F64) (m : Bool) (s : State) : (fanPc d m s).rcd = s.rcd := by
  unfold fanPc
  split
  · obtain ⟨_, hadd⟩ := pcAdd_frame d m s
    rw [hadd]
  · rfl

theorem emitPulse_samples (d : F64) (m : Bool) {s t : State} (h : SamplesKeptOrEmptied s t) :
    SamplesKeptOrEmptied s (emitPulse d m t) := by
  refine h.trans ?_
  have hdg : (fanDg d m (tracePulse d m t)).rcd = t.rcd := by rw [fanDg_rcd, tracePulse_rcd]
  rw [SamplesKeptOrEmptied, ← hdg, emitPulse, fanPc_rcd]
  generalize fanDg d m (tracePulse d m t) = u
  unfold fanRcd
  split
  · exact rcdParse_samples d m u
  · exact .inl rfl

theorem fdSample_samples (smp : Byte) (s : State) : SamplesKeptOrEmptied s (fdSample smp s) := by
  unfold fdSample
  split
  · rw [fdFlank]
    exact emitPulse_samples _ _ (.inl rfl)
  · split
    · rw [fdPush]
      exact emitPulse_samples _ _ (emitPulse_samples _ _ (.inl rfl))
    · exact .inl rfl

end Sys2Proof.Machine
end

section
/-! What a command can do, once for all commands: it ends in a fault of its list or in an OK response, and what it
leaves in the state before that response (20_memory.md R70, R80, 30_encoding.md R108, 60_exceptions.md R332, R334,
R387). -/

namespace Sys2Proof.Machine

/-- 20_memory.md R70: `t` differs from `s` only in storage that the command is listed as writing. -/
structure WritesOnly (i : Instr) (s t : State) : Prop where
  bank : writesBank i = false → t.bank = s.bank
  fd : writesFd i = false → t.fd = s.fd
  hist : writesHist i = false → t.fd.hist = s.fd.hist
  samples : writesRcdSamples i = false →
    t.rcd.samples = s.rcd.samples ∨ (startsRcdCapture i = true ∧ t.rcd.samples = [])
  pulses : writesRcdPulses i = false →
    t.rcd.pulses = s.rcd.pulses ∨ (startsRcdCapture i = true ∧ t.rcd.pulses = [])
  pc : writesPc i = false → t.pc = s.pc
  dg : writesDg i = false → t.dg = s.dg
  targets : writesTargets i = false → t.decTgt = s.decTgt
  rcd : writesRcd i = false → t.rcd = s.rcd
  csr : writesCsr i = false → t.csr = s.csr
  params : t.params = s.params
  cmd : t.cmd = s.cmd
  resetIn : t.resetIn = s.resetIn

/-- What holds of the state a command has reached when it responds OK. -/
structure OkEffect (i : Instr) (s u : State) : Prop where
  outputs : ∃ mid, u.out = s.out ++ mid ∧ NoResp mid
  record : i ≠ .sysReset → u.lastFault = s.lastFault ∧ u.lastCause = s.lastCause
  reads : readsOnly i = true → u = s
  writes : i ≠ .sysReset → WritesOnly i s u
  inv : PpcInv s → PpcInv u

/-- How a command ends: with an OK response, with a fault of its list, or, after calls on its encoder, `MR.REPEAT` with
one. -/
inductive Ends (i : Instr) (s : State) : State → Prop
  | ok {u : State} {v : Word64} {l : List PayloadItem} (h : OkEffect i s u) : Ends i s (respondList v l u)
  | fault {st : Status} {c : Cause} (h : (st, c) ∈ possibleFaults i) : Ends i s (raise st c s)
  | faultAfterCalls {st : Status} {c : Cause} {calls : List EncCall} {e : Byte} {n : Word64} {msg : Message}
    (hi : i = .mrRepeat e n msg) (h : (st, c) ∈ possibleFaults i) :
    Ends i s (raise st c (s.afterEncCalls e.toNat calls))

variable {i : Instr} {s t t' : State}

/-! ### The effects -/

theorem WritesOnly.refl (i : Instr) (s : State) : WritesOnly i s s where
  bank _ := rfl
  fd _ := rfl
  hist _ := rfl
  samples _ := .inl rfl
  pulses _ := .inl rfl
  pc _ := rfl
  dg _ := rfl
  targets _ := rfl
  rcd _ := rfl
  csr _ := rfl
  params := rfl
  cmd := rfl
  resetIn := rfl

/-- A writer of a storage space meets the clause of that space. -/
theorem of_writes {w : Bool} {P : Prop} (hw : w = true) (h : w = false) : P :=
  nomatch hw.symm.trans h

theorem OkEffect.same (i : Instr) (s : State) : OkEffect i s s where
  outputs := ⟨[], (List.append_nil _).symm, nofun⟩
  record _ := ⟨rfl, rfl⟩
  reads _ := rfl
  writes _ := .refl i s
  inv := id

theorem OkEffect.setBuf {b : Nat} {r : Buf} (hread : readsOnly i = false) (hw : writesBank i = true)
    (hr : PpcInv s → BufInv r) : OkEffect i s (s.setBuf b r) where
  outputs := ⟨[], (List.append_nil _).symm, nofun⟩
  record _ := ⟨rfl, rfl⟩
  reads h := of_writes h hread
  writes _ := { WritesOnly.refl i s with bank := of_writes hw }
  inv h := h.setBuf b (hr h)

theorem OkEffect.pc {p : Pc} (hread : readsOnly i = false) (hw : writesPc i = true)
    (hinv : PpcInv s → PpcInv { s with pc := p }) : OkEffect i s { s with pc := p } where
  outputs := ⟨[], (List.append_nil _).symm, nofun⟩
  record _ := ⟨rfl, rfl⟩
  reads h := of_writes h hread
  writes _ := { WritesOnly.refl i s with pc := of_writes hw }
  inv := hinv

theorem OkEffect.dg {g : Dg} (hread : readsOnly i = false) (hw : writesDg i = true)
    (hinv : PpcInv s → DgInv { s with dg := g }) : OkEffect i s { s with dg := g } where
  outputs := ⟨[], (List.append_nil _).symm, nofun⟩
  record _ := ⟨rfl, rfl⟩
  reads h := of_writes h hread
  writes _ := { WritesOnly.refl i s with dg := of_writes hw }
  inv h := h.with_dg (hinv h)

theorem OkEffect.csr {r : Csr} (hread : readsOnly i = false) (hw : writesCsr i = true)
    (hinv : CsrInv s → CsrInv { s with csr := r }) : OkEffect i s { s with csr := r } where
  outputs := ⟨[], (List.append_nil _).symm, nofun⟩
  record _ := ⟨rfl, rfl⟩
  reads h := of_writes h hread
  writes _ := { WritesOnly.refl i s with csr := of_writes hw }
  inv h := h.with_csr (hinv h.csrInv)

/-- Calls on decoders or encoders, and the answers taken. -/
theorem OkEffect.calls {dec : List (List DecAnswer)} {enc : List (List EncAnswer)} {mid : List Output}
    (hread : readsOnly i = false) (hmid : NoResp mid) :
    OkEffect i s { s with decAnswers := dec, encAnswers := enc, out := s.out ++ mid } where
  outputs := ⟨mid, rfl, hmid⟩
  record _ := ⟨rfl, rfl⟩
  reads h := of_writes h hread
  writes _ := { WritesOnly.refl i s with }
  inv h := h.with_ports ..

theorem OkEffect.rcd {r : Rcd} {mid : List Output} (hread : readsOnly i = false) (hw : writesRcd i = true)
    (hmid : NoResp mid)
    (hsamples : writesRcdSamples i = false →
      r.samples = s.rcd.samples ∨ (startsRcdCapture i = true ∧ r.samples = []))
    (hpulses : writesRcdPulses i = false →
      r.pulses = s.rcd.pulses ∨ (startsRcdCapture i = true ∧ r.pulses = []))
    (hinv : PpcInv s → PpcInv { s with rcd := r, out := s.out ++ mid }) :
    OkEffect i s { s with rcd := r, out := s.out ++ mid } where
  outputs := ⟨mid, rfl, hmid⟩
  record _ := ⟨rfl, rfl⟩
  reads h := of_writes h hread
  writes _ := { WritesOnly.refl i s with samples := hsamples, pulses := hpulses, rcd := of_writes hw }
  inv := hinv

theorem OkEffect.rcd_of_no_output {r : Rcd} (hread : readsOnly i = false) (hw : writesRcd i = true)
    (hsamples : writesRcdSamples i = false →
      r.samples = s.rcd.samples ∨ (startsRcdCapture i = true ∧ r.samples = []))
    (hpulses : writesRcdPulses i = false →
      r.pulses = s.rcd.pulses ∨ (startsRcdCapture i = true ∧ r.pulses = []))
    (hinv : PpcInv s → PpcInv { s with rcd := r }) : OkEffect i s { s with rcd := r } := by
  have heffect := OkEffect.rcd (r := r) (mid := []) hread hw nofun hsamples hpulses
  simp only [List.append_nil] at heffect
  exact heffect hinv

/-- A rate stored in FD. -/
theorem OkEffect.fdRate {n : Nat} (hread : readsOnly i = false) (hw : writesFd i = true) (hn : n < 2 ^ 31) :
    OkEffect i s { s with fd := { s.fd with rate := n } } where
  outputs := ⟨[], (List.append_nil _).symm, nofun⟩
  record _ := ⟨rfl, rfl⟩
  reads h := of_writes h hread
  writes _ := { WritesOnly.refl i s with fd := of_writes hw, hist := fun _ => rfl }
  inv h := h.with_fdRate hn

/-- A rate stored in FD and in RCD. -/
theorem OkEffect.bothRates {n : Nat} (hread : readsOnly i = false) (hfd : writesFd i = true) (hrcd : writesRcd i = true)
    (hn : n < 2 ^ 31) :
    OkEffect i s { s with fd := { s.fd with rate := n }, rcd := { s.rcd with rate := n } } where
  outputs := ⟨[], (List.append_nil _).symm, nofun⟩
  record _ := ⟨rfl, rfl⟩
  reads h := of_writes h hread
  writes _ := { WritesOnly.refl i s with
    fd := of_writes hfd, hist := fun _ => rfl, rcd := of_writes hrcd, samples := fun _ => .inl rfl
    pulses := fun _ => .inl rfl }
  inv h := (h.with_fdRate hn).with_rcdRate hn

/-- A sample handed to FD, and the pulses it completes. -/
theorem OkEffect.sample (hframe : ∃ f p r ans mid, t =
      { s with fd := f, pc := p, rcd := r, decAnswers := ans, out := s.out ++ mid } ∧ NoResp mid)
    (hread : readsOnly i = false)
    (hw : writesHist i = true ∧ writesFd i = true ∧ writesPc i = true ∧ writesRcd i = true)
    (hpulses : writesRcdPulses i = true)
    (hsamples : writesRcdSamples i = false →
      t.rcd.samples = s.rcd.samples ∨ (startsRcdCapture i = true ∧ t.rcd.samples = []))
    (hinv : PpcInv s → PpcInv t) : OkEffect i s t := by
  obtain ⟨f, p, r, ans, mid, rfl, hmid⟩ := hframe
  obtain ⟨hhist, hfd, hpc, hrcd⟩ := hw
  exact
    { outputs := ⟨mid, rfl, hmid⟩
      record := fun _ => ⟨rfl, rfl⟩
      reads := fun h => of_writes h hread
      writes := fun _ => { WritesOnly.refl i s with
        fd := of_writes hfd, hist := of_writes hhist, pc := of_writes hpc, rcd := of_writes hrcd, samples := hsamples
        pulses := of_writes hpulses }
      inv := hinv }

/-! ### Checks before the end -/

theorem Ends.ite {c : Prop} [Decidable c] (hpos : c → Ends i s t) (hneg : ¬c → Ends i s t') :
    Ends i s (if c then t else t') := by
  split
  · exact hpos ‹_›
  · exact hneg ‹_›

theorem Ends.onBuf {b : Byte} {k : Buf → State} (hlisted : (.invalidArgument, .badIndex) ∈ possibleFaults i)
    (hk : Ends i s (k (s.buf b.toNat))) : Ends i s (onBuf b s k) :=
  .ite (fun _ => hk) fun _ => .fault hlisted

theorem Ends.onSlot {b : Byte} {k : Nat → State} (hlisted : (.invalidArgument, .badIndex) ∈ possibleFaults i)
    (hk : b.toNat < s.params.ndec → Ends i s (k b.toNat)) : Ends i s (onSlot b s k) :=
  .ite hk fun _ => .fault hlisted

theorem Ends.onSink {b : Byte} {k : Nat → State} (hlisted : (.invalidArgument, .badIndex) ∈ possibleFaults i)
    (hk : b.toNat < s.params.nsink → Ends i s (k b.toNat)) : Ends i s (onSink b s k) :=
  .ite hk fun _ => .fault hlisted

end Sys2Proof.Machine
end

section
/-! How each command ends, unit by unit, and so every command (30_encoding.md R108, 60_exceptions.md R332). -/

namespace Sys2Proof.Machine

variable (s : State)

/-! ### BFB -/

theorem ends_bfbConstruct {i : Instr} {b : Byte} {a : Word64} (v : BitVec 64) (hread : readsOnly i = false)
    (hw : writesBank i = true) (hindex : (.invalidArgument, .badIndex) ∈ possibleFaults i)
    (hlength : (.invalidArgument, .badLength) ∈ possibleFaults i) : Ends i s (bfbConstruct b a v s) :=
  .onBuf hindex <| .ite
    (fun hrange => .ok <| .setBuf hread hw fun _ => bufInv_masked (toNat_le_of_inRange hrange) v)
    fun _ => .fault hlength

theorem ends_bfbSetbit (b : Byte) (a : Word64) (f : Bool) :
    ∃ t, exec (.bfbSetbit b a f) s = .next t ∧ Ends (.bfbSetbit b a f) s t :=
  ⟨_, rfl, .onBuf (.head _) <| .ite
    (fun hrange => .ok <| .setBuf rfl rfl fun h =>
      (h.buf b.toNat).setBit (Nat.lt_succ_of_le (toNat_le_of_inRange hrange)) f)
    fun _ => .fault (.tail _ (.head _))⟩

theorem ends_bfbAddmsb (b : Byte) (f : Bool) :
    ∃ t, exec (.bfbAddmsb b f) s = .next t ∧ Ends (.bfbAddmsb b f) s t :=
  ⟨_, rfl, .onBuf (.head _) <| .ite (fun _ => .fault (.tail _ (.head _)))
    fun hroom => .ok <| .setBuf rfl rfl fun h => (h.buf b.toNat).addMsb hroom f⟩

theorem ends_bfbAddlsb (b : Byte) (f : Bool) :
    ∃ t, exec (.bfbAddlsb b f) s = .next t ∧ Ends (.bfbAddlsb b f) s t :=
  ⟨_, rfl, .onBuf (.head _) <| .ite (fun _ => .fault (.tail _ (.head _)))
    fun hroom => .ok <| .setBuf rfl rfl fun h => (h.buf b.toNat).addLsb hroom f⟩

theorem ends_bfbInsert (b : Byte) (a l v : Word64) :
    ∃ t, exec (.bfbInsert b a l v) s = .next t ∧ Ends (.bfbInsert b a l v) s t :=
  ⟨_, rfl, .onBuf (.head _) <| .ite
    (fun hfield => .ok <| .setBuf rfl rfl fun h => (h.buf b.toNat).insert (field_lt_of_fieldOk hfield) v)
    fun _ => .fault (.tail _ (.head _))⟩

theorem ends_bfbShr (b : Byte) (a : Word64) : ∃ t, exec (.bfbShr b a) s = .next t ∧ Ends (.bfbShr b a) s t :=
  ⟨_, rfl, .onBuf (.head _) <| .ite
    (fun _ => .ok <| .setBuf rfl rfl fun h => (h.buf b.toNat).shiftRight a.toNat)
    fun _ => .fault (.tail _ (.head _))⟩

/-! ### MR -/

theorem ends_mrRepeat (e : Byte) (n : Word64) (msg : Message) :
    ∃ t, exec (.mrRepeat e n msg) s = .next t ∧ Ends (.mrRepeat e n msg) s t := by
  by_cases he : s.params.nenc ≤ e.toNat
  · exact ⟨raiseArg .badIndex s, faults_badIndex_of_mrRepeat he, .fault (.head _)⟩
  by_cases hn : n.toInt < 0
  · exact ⟨raiseArg .badCount s, faults_badCount_of_mrRepeat (not_le.mp he) hn, .fault (.tail _ (.head _))⟩
  refine ⟨_, exec_mrRepeat_of_legal (not_le.mp he) (not_lt.mp hn), ?_⟩
  cases hfirst : s.encoder e.toNat [⟨msg, 0#1⟩] with
  | badMessage =>
    rw [repeatFirst_of_badMessage_first hfirst]
    exact .faultAfterCalls rfl (.tail _ (.tail _ (.head _)))
  | pulses pre =>
    cases hrepeated : s.encoder e.toNat [⟨msg, 0#1⟩, ⟨msg, 1#1⟩] with
    | badMessage =>
      rw [repeatFirst_of_badMessage_repeated hfirst hrepeated]
      exact .faultAfterCalls rfl (.tail _ (.tail _ (.head _)))
    | pulses rep =>
      rw [repeatFirst_eq_repeatTrain hfirst hrepeated]
      exact .ite (fun _ => .faultAfterCalls rfl (.tail _ (.tail _ (.tail _ (.head _)))))
        fun _ => .ok (.calls rfl (by simp [NoResp, Output.isResp]))

/-! ### DG -/

theorem ends_dgSettarget (k : Byte) : ∃ t, exec (.dgSettarget k) s = .next t ∧ Ends (.dgSettarget k) s t := by
  refine ⟨_, rfl, .onSink (.head _) fun hk => .ok ?_⟩
  have hinv := fun h : PpcInv s => h.foldl_callSetTarget hk (s.dg.active ++ s.dg.passive)
  obtain ⟨tgt, hcalls⟩ := settarget_frame k.toNat (s.dg.active ++ s.dg.passive) s
  rw [hcalls] at hinv ⊢
  have hmid : NoResp ((s.dg.active ++ s.dg.passive).map fun i => .dec i (.setTarget k.toNat)) := by
    intro o ho
    obtain ⟨i, -, rfl⟩ := List.mem_map.mp ho
    rfl
  exact
    { outputs := ⟨_, rfl, hmid⟩
      record := fun _ => ⟨rfl, rfl⟩
      reads := nofun
      writes := fun _ => { WritesOnly.refl (.dgSettarget k) s with targets := nofun }
      inv := hinv }

theorem ends_dgParse (d : F64) (f : Bool) : ∃ t, exec (.dgParse d f) s = .next t ∧ Ends (.dgParse d f) s t := by
  refine ⟨_, rfl, .ok ?_⟩
  obtain ⟨ans, mid, hframe, hmid⟩ := dgParse_frame d f s
  rw [hframe]
  exact .calls rfl hmid

/-! ### PC -/

theorem ends_pcAdd (d : F64) (f : Bool) : ∃ t, exec (.pcAdd d f) s = .next t ∧ Ends (.pcAdd d f) s t := by
  refine ⟨_, rfl, .ok ?_⟩
  have hinv := fun h : PpcInv s => h.pcAdd d f
  obtain ⟨p, hframe⟩ := pcAdd_frame d f s
  rw [hframe] at hinv ⊢
  exact .pc rfl rfl hinv

theorem ends_pcPrime (d : F64) (f : Bool) : ∃ t, exec (.pcPrime d f) s = .next t ∧ Ends (.pcPrime d f) s t := by
  refine ⟨_, rfl, .ok ?_⟩
  have hinv := fun h : PpcInv s => h.pcPrime d f
  obtain ⟨p, hframe⟩ := pcPrime_frame d f s
  rw [hframe] at hinv ⊢
  exact .pc rfl rfl hinv

/-! ### RCD -/

theorem ends_rcdParse (d : F64) (f : Bool) : ∃ t, exec (.rcdParse d f) s = .next t ∧ Ends (.rcdParse d f) s t := by
  refine ⟨_, rfl, .ok ?_⟩
  have hinv := fun h : PpcInv s => h.rcdParse d f
  have hsamples := rcdParse_samples d f s
  obtain ⟨r, mid, hframe, hmid⟩ := rcdParse_frame d f s
  rw [hframe] at hinv hsamples ⊢
  exact .rcd rfl rfl hmid (fun _ => hsamples.imp id fun hempty => ⟨rfl, hempty⟩) nofun hinv

theorem ends_rcdAddsample (smp : Byte) :
    ∃ t, exec (.rcdAddsample smp) s = .next t ∧ Ends (.rcdAddsample smp) s t := by
  refine ⟨_, rfl, .ite (fun _ => .fault (.head _)) fun _ => .ok ?_⟩
  have hinv := fun h : PpcInv s => h.rcdSample smp
  obtain ⟨hpulses, -⟩ := rcdSample_keeps smp s
  obtain ⟨r, mid, hframe, hmid⟩ := rcdSample_frame smp s
  rw [hframe] at hinv hpulses ⊢
  exact .rcd rfl rfl hmid nofun (fun _ => .inl hpulses) hinv

theorem ends_rcdSetrate (a : Word64) : ∃ t, exec (.rcdSetrate a) s = .next t ∧ Ends (.rcdSetrate a) s t :=
  ⟨_, rfl, .ite
    (fun hrate => .ok <| .rcd_of_no_output rfl rfl (fun _ => .inl rfl) (fun _ => .inl rfl)
      fun h => h.with_rcdRate (rate_lt_of_rateOk hrate))
    fun _ => .fault (.head _)⟩

theorem ends_rcdSettarget (k : Byte) : ∃ t, exec (.rcdSettarget k) s = .next t ∧ Ends (.rcdSettarget k) s t :=
  ⟨_, rfl, .onSink (.head _) fun hk => .ok <|
    .rcd_of_no_output rfl rfl (fun _ => .inl rfl) (fun _ => .inl rfl) fun h => h.with_rcd _ h.rcdInv hk⟩

theorem ends_rcdStartfree (a : Word64) :
    ∃ t, exec (.rcdStartfree a) s = .next t ∧ Ends (.rcdStartfree a) s t :=
  ⟨_, rfl, .ite
    (fun hrange => .ok <| .rcd_of_no_output rfl rfl (fun _ => .inr ⟨rfl, rfl⟩) (fun _ => .inr ⟨rfl, rfl⟩) fun h =>
      h.with_rcd _ (h.rcdInv.startCapture true (toNat_le_of_inRange_one hrange)) h.target_lt)
    fun _ => .fault (.head _)⟩

/-! ### FD and SYS -/

theorem ends_csrRd (n : Byte) : ∃ t, exec (.csrRd n) s = .next t ∧ Ends (.csrRd n) s t := by
  refine ⟨_, rfl, ?_⟩
  cases csrOfNumber n with
  | none => exact .fault (.head _)
  | some c => exact .ok (.same _ s)

theorem ends_csrWr (n : Byte) (a : Word64) : ∃ t, exec (.csrWr n a) s = .next t ∧ Ends (.csrWr n a) s t := by
  refine ⟨_, rfl, ?_⟩
  cases csrOfNumber n with
  | none => exact .fault (.head _)
  | some c =>
    exact .ite (fun _ => .fault (.head _)) fun _ => .ite (fun hlegal => .ok <| .csr rfl rfl fun h => h.store hlegal)
      fun _ => .fault (.tail _ (.head _))

theorem ends_sysReset : ∃ t, exec .sysReset s = .next t ∧ Ends .sysReset s t :=
  ⟨_, rfl, .ok
    { outputs := ⟨[], (List.append_nil _).symm, nofun⟩
      record := fun h => absurd rfl h
      reads := nofun
      writes := fun h => absurd rfl h
      inv := fun h => (ppcInv_resetWith h.1).with_ports .. }⟩

theorem ends_fdSample (smp : Byte) : ∃ t, exec (.fdSample smp) s = .next t ∧ Ends (.fdSample smp) s t :=
  ⟨_, rfl, .ite (fun _ => .fault (.head _)) fun _ => .ok <|
    .sample (fdSample_frame smp s) rfl ⟨rfl, rfl, rfl, rfl⟩ rfl
      (fun _ => (fdSample_samples smp s).imp id fun hempty => ⟨rfl, hempty⟩) fun h => h.fdSample smp⟩

/-- 48_system.md R316: FD's part, then RCD's, each if it is enabled. -/
theorem topSample_frame (smp : Byte) (s : State) :
    ∃ f p r ans mid, topRcd smp (topFd smp s) =
      { s with fd := f, pc := p, rcd := r, decAnswers := ans, out := s.out ++ mid } ∧ NoResp mid := by
  have hfd : ∃ f p r ans mid, topFd smp s =
      { s with fd := f, pc := p, rcd := r, decAnswers := ans, out := s.out ++ mid } ∧ NoResp mid := by
    unfold topFd
    split
    · exact fdSample_frame smp s
    · exact ⟨_, _, _, _, [], by rw [List.append_nil], nofun⟩
  obtain ⟨f, p, r, ans, mid, hfd, hmid⟩ := hfd
  rw [hfd]
  unfold topRcd
  split
  · obtain ⟨r', mid', hrcd, hmid'⟩ :=
      rcdSample_frame smp { s with fd := f, pc := p, rcd := r, decAnswers := ans, out := s.out ++ mid }
    exact ⟨f, p, r', ans, mid ++ mid', by rw [hrcd, List.append_assoc], hmid.append hmid'⟩
  · exact ⟨f, p, r, ans, mid, rfl, hmid⟩

theorem ends_topSample (smp : Byte) : ∃ t, exec (.topSample smp) s = .next t ∧ Ends (.topSample smp) s t :=
  ⟨_, rfl, .ite (fun _ => .fault (.head _)) fun _ => .ok <|
    .sample (topSample_frame smp s) rfl ⟨rfl, rfl, rfl, rfl⟩ rfl nofun fun h => h.topSample smp⟩

/-! ### Every command -/

/-- 00_scope.md R8: every command has a next state, and ends in one of the three ways. -/
theorem exec_ends (i : Instr) (s : State) : ∃ t, exec i s = .next t ∧ Ends i s t := by
  cases i with
  | nop => exact ⟨_, rfl, .ok (.same _ s)⟩
  | csrRd n => exact ends_csrRd s n
  | csrWr n a => exact ends_csrWr s n a
  | sysReset => exact ends_sysReset s
  | topSample smp => exact ends_topSample s smp
  | topSetrate a =>
    exact ⟨_, rfl, .ite (fun hrate => .ok (.bothRates rfl rfl rfl (rate_lt_of_rateOk hrate))) fun _ => .fault (.head _)⟩
  | bfbNew b a => exact ⟨_, rfl, ends_bfbConstruct s 0#64 rfl rfl (.head _) (.tail _ (.head _))⟩
  | bfbNewv b a v => exact ⟨_, rfl, ends_bfbConstruct s v rfl rfl (.head _) (.tail _ (.head _))⟩
  | bfbClear b => exact ⟨_, rfl, .onBuf (.head _) (.ok (.setBuf rfl rfl fun _ => bufInv_empty))⟩
  | bfbLen b => exact ⟨_, rfl, .onBuf (.head _) (.ok (.same _ s))⟩
  | bfbGetbit b a =>
    exact ⟨_, rfl, .onBuf (.head _) (.ite (fun _ => .ok (.same _ s)) fun _ => .fault (.tail _ (.head _)))⟩
  | bfbSetbit b a f => exact ends_bfbSetbit s b a f
  | bfbAddmsb b f => exact ends_bfbAddmsb s b f
  | bfbAddlsb b f => exact ends_bfbAddlsb s b f
  | bfbInsert b a l v => exact ends_bfbInsert s b a l v
  | bfbExtu b a l =>
    exact ⟨_, rfl, .onBuf (.head _) (.ite (fun _ => .ok (.same _ s)) fun _ => .fault (.tail _ (.head _)))⟩
  | bfbExts b a l =>
    exact ⟨_, rfl, .onBuf (.head _) (.ite (fun _ => .ok (.same _ s)) fun _ => .fault (.tail _ (.head _)))⟩
  | bfbShr b a => exact ends_bfbShr s b a
  | bfbTobytes b =>
    exact ⟨_, rfl, .onBuf (.head _) (.ite (fun _ => .ok (.same _ s)) fun _ => .fault (.tail _ (.head _)))⟩
  | bfbEq b b2 => exact ⟨_, rfl, .onBuf (.head _) (.onBuf (.head _) (.ok (.same _ s)))⟩
  | bfbHash b => exact ⟨_, rfl, .onBuf (.head _) (.ok (.same _ s))⟩
  | fdSample smp => exact ends_fdSample s smp
  | fdSetrate a =>
    exact ⟨_, rfl, .ite (fun hrate => .ok (.fdRate rfl rfl (rate_lt_of_rateOk hrate))) fun _ => .fault (.head _)⟩
  | pcAdd d f => exact ends_pcAdd s d f
  | pcPrime d f => exact ends_pcPrime s d f
  | pcGet => exact ⟨_, rfl, .ok (.same _ s)⟩
  | pcReset => exact ⟨_, rfl, .ok (.pc rfl rfl fun h => h.with_pc ⟨Nat.zero_le _, nofun⟩)⟩
  | dgParse d f => exact ends_dgParse s d f
  | dgAdd i => exact ⟨_, rfl, .onSlot (.head _) fun hi => .ok (.dg rfl rfl fun h => h.dgInv.add hi)⟩
  | dgRemove i => exact ⟨_, rfl, .onSlot (.head _) fun _ => .ok (.dg rfl rfl fun h => h.dgInv.remove i.toNat)⟩
  | dgSetactive i f => exact ⟨_, rfl, .onSlot (.head _) fun hi => .ok (.dg rfl rfl fun h => h.dgInv.setActive hi f)⟩
  | dgSettarget k => exact ends_dgSettarget s k
  | rcdParse d f => exact ends_rcdParse s d f
  | rcdAddsample smp => exact ends_rcdAddsample s smp
  | rcdSetrate a => exact ends_rcdSetrate s a
  | rcdSettarget k => exact ends_rcdSettarget s k
  | rcdStartfree a => exact ends_rcdStartfree s a
  | rcdGetinfo => exact ⟨_, rfl, .ok (.same _ s)⟩
  | mrRepeat e n msg => exact ends_mrRepeat s e n msg

end Sys2Proof.Machine
end

section
/-! The rules about every command (20_memory.md R70, R80, 30_encoding.md R108, 60_exceptions.md R332, R334, R387) and
the invariant kept by every step. -/

namespace Sys2Proof.Machine

variable {i : Instr} {s t : State} {pre : List Output} {r : Response}

theorem ends_of_exec (hexec : exec i s = .next t) : Ends i s t := by
  obtain ⟨t', hexec', hends⟩ := exec_ends i s
  cases hexec.symm.trans hexec'
  exact hends

/-- 60_exceptions.md R331, R332: a listed fault is no OK, and its cause fits its status. -/
theorem fault_of_listed {st : Status} {c : Cause} (h : (st, c) ∈ possibleFaults i) :
    st ≠ .ok ∧ causeFits st c = true := by
  have hlisted : ∀ p ∈ possibleFaults i, p.1 ≠ .ok ∧ causeFits p.1 p.2 = true := by
    cases i <;> simp [possibleFaults, causeFits]
  exact hlisted _ h

/-- The last output of a command is its response. -/
theorem response_of_out {a b : List Output} {r r' : Response} (h : a ++ [.resp r] = b ++ [.resp r']) :
    a = b ∧ r = r' := by
  obtain ⟨hinit, hlast⟩ := List.append_inj' h rfl
  cases hlast
  exact ⟨hinit, rfl⟩

/-- A command that responds OK: its effect, and the outputs before the response. -/
theorem okEffect_of_ok (hexec : exec i s = .next t) (hout : t.out = pre ++ [.resp r]) (hr : r.status = .ok) :
    ∃ u v l, OkEffect i s u ∧ t = respondList v l u ∧ pre = u.out := by
  cases ends_of_exec hexec with
  | ok heffect => exact ⟨_, _, _, heffect, rfl, (response_of_out hout).1.symm⟩
  | fault hlisted =>
    obtain ⟨-, rfl⟩ := response_of_out hout
    exact absurd hr (fault_of_listed hlisted).1
  | faultAfterCalls hi hlisted =>
    obtain ⟨-, rfl⟩ := response_of_out hout
    exact absurd hr (fault_of_listed hlisted).1

/-- Settles O12: the outputs before the response are those of the effect, or the calls on the encoder. -/
theorem everyCommandRespondsOnceAndLast : Obligations.EveryCommandRespondsOnceAndLast := by
  intro i s
  obtain ⟨t, hexec, hends⟩ := exec_ends i s
  cases hends with
  | ok heffect =>
    obtain ⟨mid, hout, hmid⟩ := heffect.outputs
    exact ⟨_, mid, _, hexec, by rw [respondList_out, hout], hmid⟩
  | fault hlisted => exact ⟨_, [], _, hexec, by rw [raise_out, List.append_nil], nofun⟩
  | faultAfterCalls hi hlisted =>
    refine ⟨_, _, _, hexec, rfl, fun o ho => ?_⟩
    obtain ⟨call, -, rfl⟩ := List.mem_map.mp ho
    rfl

/-- Settles O13: a fault is `raise`, of the state itself or, of `MR.REPEAT`, of the state after the encoder calls. -/
theorem faultingCommandChangesOnlyTheRecord : Obligations.FaultingCommandChangesOnlyTheRecord := by
  intro i s t pre r hexec hout hr
  cases ends_of_exec hexec with
  | ok heffect =>
    obtain ⟨-, rfl⟩ := response_of_out hout
    exact absurd rfl hr
  | fault hlisted =>
    obtain ⟨hpre, rfl⟩ := response_of_out hout
    exact ⟨rfl, rfl, rfl, fun _ => ⟨rfl, hpre.symm⟩⟩
  | faultAfterCalls hi hlisted =>
    obtain ⟨-, rfl⟩ := response_of_out hout
    exact ⟨rfl, rfl, rfl, fun hother => absurd hi (hother _ _ _)⟩

/-- Settles O14: the ways a command ends give only listed faults. -/
theorem commandsFaultOnlyAsListed : Obligations.CommandsFaultOnlyAsListed := by
  intro i s t pre r hexec hout hr
  cases ends_of_exec hexec with
  | ok heffect =>
    obtain ⟨-, rfl⟩ := response_of_out hout
    exact absurd rfl hr
  | fault hlisted =>
    obtain ⟨-, rfl⟩ := response_of_out hout
    exact hlisted
  | faultAfterCalls hi hlisted =>
    obtain ⟨-, rfl⟩ := response_of_out hout
    exact hlisted

/-- Settles O15: the response leaves the record alone, and so does the effect before it. -/
theorem successLeavesTheFaultRecord : Obligations.SuccessLeavesTheFaultRecord := by
  intro i s t pre r hexec hout hr hi
  obtain ⟨u, v, l, heffect, rfl, -⟩ := okEffect_of_ok hexec hout hr
  exact heffect.record hi

/-- Settles O16: before the response a reading command has changed nothing. -/
theorem readsHaveNoSideEffect : Obligations.ReadsHaveNoSideEffect := by
  intro i s t pre r hread hexec hout hr
  obtain ⟨u, v, l, heffect, rfl, rfl⟩ := okEffect_of_ok hexec hout hr
  obtain rfl := heffect.reads hread
  exact ⟨rfl, rfl⟩

/-- 20_memory.md R70: what a command writes. -/
theorem writesOnly_of_exec (hexec : exec i s = .next t) (hi : i ≠ .sysReset) : WritesOnly i s t := by
  cases ends_of_exec hexec with
  | ok heffect => exact { heffect.writes hi with }
  | fault hlisted => exact { WritesOnly.refl i s with }
  | faultAfterCalls hmr hlisted => exact { WritesOnly.refl i s with }

/-- Settles O17: the clauses are the fields of `WritesOnly`. -/
theorem storageIsWrittenOnlyByItsOwnCommands : Obligations.StorageIsWrittenOnlyByItsOwnCommands := by
  intro i s t hi hexec
  obtain ⟨hbank, hfd, hhist, hsamples, hpulses, hpc, hdg, htargets, hrcd, hcsr, hparams, hcmd, hreset⟩ :=
    writesOnly_of_exec hexec hi
  exact ⟨hbank, hfd, hhist, hsamples, hpulses, hpc, hdg, htargets, hrcd, hcsr, hparams, hcmd, hreset⟩

theorem PpcInv.exec (h : PpcInv s) (hexec : exec i s = .next t) : PpcInv t := by
  cases ends_of_exec hexec with
  | ok heffect => exact (heffect.inv h).with_ports ..
  | fault hlisted => exact h.raise (fault_of_listed hlisted).2
  | faultAfterCalls hi hlisted => exact PpcInv.raise (h.with_ports ..) (fault_of_listed hlisted).2

/-- Settles O11: a step is a reset, a wait, the fault of an illegal word or a command, and each keeps the invariant. -/
theorem everyStepKeepsTheInvariant : Obligations.EveryStepKeepsTheInvariant := by
  intro s t h hstep
  unfold step at hstep
  split at hstep
  · cases hstep
    exact (ppcInv_resetWith h.1).with_ports ..
  · split at hstep
    case h_1 | h_2 =>
      cases hstep
      exact h
    case h_3 rest hdecode =>
      cases hstep
      exact PpcInv.raise (h.with_ports ..) rfl
    case h_4 | h_5 => cases hstep
    case h_6 i rest hdecode => exact PpcInv.exec (h.with_ports ..) hstep

end Sys2Proof.Machine
end

section
/-! A field written and read back (41_bitfield.md R159, R160), the match predicate (45_classifier.md R251, R259) and the
STATUS word (10_state.md R41). -/

namespace Sys2Proof.Machine

/-! ### A field -/

/-- 41_bitfield.md R159, R160: the bits written, as a number. -/
theorem Buf.field_insert (r : Buf) {p n : Nat} (hfield : p + n < 64) (v : BitVec 64) :
    (r.insert p n v).field p n = BitVec.ofNat 64 (v.toNat % 2 ^ n) := by
  refine BitVec.eq_of_getLsbD_eq fun j hj => ?_
  have hv : (BitVec.ofNat 64 (v.toNat % 2 ^ n)).getLsbD j = (decide (j < n) && v.getLsbD j) := by
    rw [BitVec.getLsbD_ofNat, Nat.testBit_mod_two_pow, decide_eq_true hj, Bool.true_and]
    rfl
  rw [Buf.getLsbD_field, hv]
  by_cases hjn : j < n
  · rw [Buf.getLsbD_insert _ _ _ _ (by omega), if_pos (by omega), Nat.add_sub_cancel_left]
  · simp [hjn]

theorem answers_of_bfbExtu {b : Byte} {a l : Word64} {s : State} (hb : b.toNat < s.params.nbuf)
    (hfield : LegalField a l) : Answers (.bfbExtu b a l) s s ((s.buf b.toNat).field a.toNat l.toNat) [] :=
  answers_of_onBuf rfl hb (if_pos (fieldOk_iff.mpr hfield))

/-- Settles O33: the register written is the one read, with the field in it. -/
theorem insertedFieldReadsBack : Obligations.InsertedFieldReadsBack := by
  intro b a l v s t hb hbank hfield hexec
  have hok := fieldOk_iff.mpr hfield
  obtain ⟨-, hl, -⟩ := hfield.toInt_eq_toNat
  have hinsert : Answers (.bfbInsert b a l v) s
      (s.setBuf b.toNat ((s.buf b.toNat).insert a.toNat l.toNat v)) 0#64 [] := answers_of_onBuf rfl hb (if_pos hok)
  have ht := Host.Outcome.next.inj (hexec.symm.trans hinsert)
  have hread : t.buf b.toNat = (s.buf b.toNat).insert a.toNat l.toNat v := by
    rw [ht]
    exact buf_setBuf_same s _ _ (hbank.symm ▸ hb)
  have hparams : t.params = s.params := by rw [ht]; rfl
  rw [hl, Int.toNat_natCast, ← Buf.field_insert _ (field_lt_of_fieldOk hok) v, ← hread]
  exact answers_of_bfbExtu (hparams ▸ hb) hfield

/-! ### The match predicate -/

theorem f64Div?_of_nan_left {x : F64} (hx : f64IsNan x = true) (y : F64) : f64Div? x y = none := by
  simp [f64Div?, hx]

/-- R251: the deviation is there exactly when the average, the quotient and the difference are. -/
theorem deviation?_eq_some_iff {g : Group} {d x : F64} :
    g.deviation? d = some x ↔
      ∃ a q y, g.avg? = some a ∧ f64Div? d a = some q ∧ f64Sub? f64One q = some y ∧ f64Abs y = x := by
  unfold Group.deviation?
  cases g.avg? with
  | none => simp
  | some a => cases hq : f64Div? d a <;> simp [hq]

theorem matches_iff {g : Group} {tol d : F64} {m : Bool} :
    g.matches tol d m = true ↔ g.isMark = m ∧ ∃ x, g.deviation? d = some x ∧ f64Lt x tol = true := by
  rw [Group.matches, Bool.and_eq_true, beq_iff_eq]
  cases g.deviation? d <;> simp

/-- R259 (c): no quotient of a NaN duration is a number. -/
theorem matches_of_nan {d : F64} (hd : f64IsNan d = true) (g : Group) (tol : F64) (m : Bool) :
    g.matches tol d m = false := by
  rw [Bool.eq_false_iff, Ne, matches_iff]
  rintro ⟨-, x, hx, -⟩
  obtain ⟨a, q, y, -, hq, -⟩ := deviation?_eq_some_iff.mp hx
  exact nomatch (f64Div?_of_nan_left hd a).symm.trans hq

/-- Settles O42: the deviation with its average and absolute value written out. -/
theorem matchIsADeviationBelowTheTolerance : Obligations.MatchIsADeviationBelowTheTolerance := by
  intro g tol d m
  refine ⟨matches_iff.trans (and_congr_right fun _ => ⟨?_, ?_⟩), fun hd => matches_of_nan hd g tol m⟩
  · rintro ⟨x, hx, hlt⟩
    obtain ⟨a, q, y, havg, hq, hy, rfl⟩ := deviation?_eq_some_iff.mp hx
    exact ⟨a, q, y, havg, hq, hy, hlt⟩
  · rintro ⟨a, q, y, havg, hq, hy, hlt⟩
    exact ⟨_, deviation?_eq_some_iff.mpr ⟨a, q, y, havg, hq, hy, rfl⟩, hlt⟩

/-! ### The STATUS word -/

/-- R41: each bit of the STATUS word, by the field it lies in. -/
theorem getLsbD_statusWord (s : State) (j : Nat) :
    (statusWord s).getLsbD j =
      if j < 1 then s.fd.pushed
      else if j < 2 then rcdBit s.rcd.mode
      else if j < 3 then s.rcd.free && rcdBit s.rcd.mode
      else if j < 4 then s.pc.ovf
      else if j < 8 then false
      else if j < 16 then (statusCode s.lastFault).getLsbD (j - 8)
      else if j < 24 then (causeCode s.lastCause).getLsbD (j - 16)
      else false := by
  change (0#40 ++ causeCode s.lastCause ++ statusCode s.lastFault ++ 0#4 ++ BitVec.ofBool s.pc.ovf
    ++ BitVec.ofBool (s.rcd.free && rcdBit s.rcd.mode) ++ BitVec.ofBool (rcdBit s.rcd.mode)
    ++ BitVec.ofBool s.fd.pushed).getLsbD j = _
  simp only [BitVec.getLsbD_append, BitVec.getLsbD_ofBool, BitVec.getLsbD_zero, Nat.sub_sub]
  grind

/-- R41: the fields of more than one bit. -/
theorem statusWord_extract (s : State) :
    (statusWord s).extractLsb' 4 4 = 0#4 ∧ (statusWord s).extractLsb' 8 8 = statusCode s.lastFault ∧
      (statusWord s).extractLsb' 16 8 = causeCode s.lastCause ∧ (statusWord s).extractLsb' 24 40 = 0#40 := by
  and_intros
  all_goals
    refine BitVec.eq_of_getLsbD_eq fun j hj => ?_
    rw [BitVec.getLsbD_extractLsb', getLsbD_statusWord, decide_eq_true hj, Bool.true_and]
    grind

/-- R41: "RCD is capturing" as a bit. -/
theorem rcdBit_eq_true_iff {m : RcdMode} : rcdBit m = true ↔ m = .capturing := by cases m <;> simp [rcdBit]

/-- Settles O52: the flags bit by bit, the codes from the tables of R330 and R331. -/
theorem statusWordFields : Obligations.StatusWordFields := by
  intro s
  obtain ⟨hzero, hstatus, hcause, hhigh⟩ := statusWord_extract s
  have hcapturing : (statusWord s).getLsbD 1 = rcdBit s.rcd.mode := getLsbD_statusWord s 1
  have hfree : (statusWord s).getLsbD 2 = (s.rcd.free && rcdBit s.rcd.mode) := getLsbD_statusWord s 2
  rw [hstatus, hcause, hcapturing, hfree, Bool.and_eq_true, rcdBit_eq_true_iff]
  have hst (st : Status) (h : s.lastFault = st) : statusCode s.lastFault = statusCode st := congrArg statusCode h
  have hca (c : Cause) (h : s.lastCause = c) : causeCode s.lastCause = causeCode c := congrArg causeCode h
  exact ⟨getLsbD_statusWord s 0, .rfl, .rfl, getLsbD_statusWord s 3, hzero, hst .ok, hst .invalidArgument,
    hst .rangeError, hst .badMessage, hst .illegalCommand, hca .none, hca .badIndex, hca .badLength, hca .badBitPos,
    hca .badField, hca .badShift, hca .badConfig, hca .badCsr, hca .rateNotSet, hca .badCount, hca .outputTooLong,
    hca .full, hhigh⟩

end Sys2Proof.Machine
end

section
/-! Rounding (00_scope.md R12): the rounded quotient is nearest among all finite numbers, and infinite from half a place
past the largest of them on. -/

namespace Sys2Proof.Machine

/-! ### The significand -/

/-- The significand of a rounded quotient, its last place being that of `roundExp`. -/
def roundSig (num den : Nat) : Nat := roundDiv num (den * 2 ^ roundExp num den)

/-- At the last place of the largest finite number, rounding up leaves the range from half a place past it on. -/
theorem two_pow_le_roundDiv_iff {num half : Nat} (hhalf : 0 < half) (hnum : num < 2 ^ 53 * (2 * half)) :
    2 ^ 53 ≤ roundDiv num (2 * half) ↔ (2 ^ 54 - 1) * half ≤ num := by
  have hdiv := Nat.div_add_mod num (2 * half)
  have hmod := Nat.mod_lt num (show 0 < 2 * half by omega)
  have hquot : num / (2 * half) < 2 ^ 53 := (Nat.div_lt_iff_lt_mul (by omega)).mpr hnum
  have hcases := roundDiv_cases num (2 * half)
  generalize num / (2 * half) = quot at *
  generalize num % (2 * half) = rem at *
  obtain hlast | hless : quot = 2 ^ 53 - 1 ∨ quot + 2 ≤ 2 ^ 53 := by omega
  · subst hlast
    omega
  · have hbelow : 2 * half * (quot + 2) ≤ 2 * half * 2 ^ 53 := Nat.mul_le_mul_left _ hless
    rw [Nat.mul_add] at hbelow
    omega

/-- The magnitude bits reach those of an infinity exactly from half a place past the largest finite number on. -/
theorem inf_le_magBits_iff {num den : Nat} (hden : 0 < den) :
    2047 * 2 ^ 52 ≤ roundExp num den * 2 ^ 52 + roundSig num den ↔ (2 ^ 54 - 1) * 2 ^ 2044 * den ≤ num := by
  obtain ⟨hlt, hge⟩ := roundExp_spec num den hden
  obtain ⟨hsig, hsig'⟩ := roundDiv_bounds num den hden
  rw [← roundSig] at hsig hsig'
  obtain hsmall | htop | hbig : roundExp num den ≤ 2044 ∨ roundExp num den = 2045 ∨ 2046 ≤ roundExp num den := by
    omega
  · have hpow : 2 ^ roundExp num den ≤ 2 ^ 2044 := Nat.pow_le_pow_right (by omega) hsmall
    have hmul : den * 2 ^ roundExp num den ≤ den * 2 ^ 2044 := Nat.mul_le_mul_left _ hpow
    rw [Nat.mul_assoc, Nat.mul_comm (2 ^ 2044) den]
    generalize den * 2 ^ 2044 = half at *
    omega
  · have hhalf : 0 < den * 2 ^ 2044 := by positivity
    have hplace : den * 2 ^ roundExp num den = 2 * (den * 2 ^ 2044) := by rw [htop, pow_succ]; ring
    rw [hplace] at hlt
    have hround := two_pow_le_roundDiv_iff hhalf hlt
    rw [← hplace, ← roundSig] at hround
    rw [Nat.mul_assoc, Nat.mul_comm (2 ^ 2044) den, ← hround]
    omega
  · have hpow : 2 ^ 2046 ≤ 2 ^ roundExp num den := Nat.pow_le_pow_right (by omega) hbig
    have hmul : den * 2 ^ 2046 ≤ den * 2 ^ roundExp num den := Nat.mul_le_mul_left _ hpow
    have hfour : den * 2 ^ 2046 = 4 * (den * 2 ^ 2044) := by rw [show 2046 = 2044 + 2 from rfl, pow_add]; ring
    have hnum := hge (by omega)
    have hsig'' := hsig' (by omega)
    rw [Nat.mul_assoc, Nat.mul_comm (2 ^ 2044) den]
    rw [hfour] at hmul
    generalize den * 2 ^ 2044 = half at *
    omega

/-! ### The rounded number -/

theorem f64Round_of_le {num den : Nat} (hden : 0 < den) (hnum : (2 ^ 54 - 1) * 2 ^ 2044 * den ≤ num) (neg : Bool) :
    f64Round neg num den = f64Inf neg :=
  if_pos ((inf_le_magBits_iff hden).mpr hnum)

theorem f64Round_of_lt {num den : Nat} (hden : 0 < den) (hnum : num < (2 ^ 54 - 1) * 2 ^ 2044 * den) (neg : Bool) :
    f64Round neg num den = f64Pack neg (roundExp num den * 2 ^ 52 + roundSig num den) :=
  if_neg (mt (inf_le_magBits_iff hden).mp hnum.not_ge)

/-- The integer with a given sign and magnitude. -/
def signed (neg : Bool) (v : Int) : Int := if neg then -v else v

theorem f64Int_eq_signed (x : F64) : f64Int x = signed (f64Sign x) (f64Mag x) := rfl

/-- What the number rounded inside the range is. -/
theorem f64Round_fields {num den : Nat} (hden : 0 < den) (hnum : num < (2 ^ 54 - 1) * 2 ^ 2044 * den) (neg : Bool) :
    f64IsFinite (f64Round neg num den) = true ∧
      f64Int (f64Round neg num den) = signed neg (roundSig num den * 2 ^ roundExp num den) ∧
      (f64Round neg num den).getLsbD 0 = decide (roundSig num den % 2 = 1) := by
  have hbits : roundExp num den * 2 ^ 52 + roundSig num den < 2047 * 2 ^ 52 :=
    not_le.mp (mt (inf_le_magBits_iff hden).mp hnum.not_ge)
  obtain ⟨hsig, hsig'⟩ := roundDiv_bounds num den hden
  have hmag := f64Mag_pack neg _ _ hsig hsig' hbits
  rw [← roundSig] at hmag
  rw [f64Round_of_lt hden hnum]
  obtain ⟨hexp, -, hsign, hlast⟩ :=
    f64Pack_fields neg (roundExp num den * 2 ^ 52 + roundSig num den) (by omega)
  refine ⟨?_, ?_, ?_⟩
  · rw [f64IsFinite, hexp, bne_iff_ne]
    omega
  · rw [f64Int_eq_signed, hsign, hmag]
    push_cast
    rfl
  · rw [hlast, decide_eq_decide]
    omega

theorem f64Sign_inf (neg : Bool) : f64Sign (f64Inf neg) = neg := by
  obtain ⟨-, -, hsign, -⟩ := f64Pack_fields neg (2047 * 2 ^ 52) (by omega)
  exact hsign

theorem f64IsInf_inf (neg : Bool) : f64IsInf (f64Inf neg) = true := by cases neg <;> decide

theorem f64Sign_round {num den : Nat} (hden : 0 < den) (neg : Bool) : f64Sign (f64Round neg num den) = neg := by
  obtain hnum | hnum := lt_or_ge num ((2 ^ 54 - 1) * 2 ^ 2044 * den)
  · have hbits : roundExp num den * 2 ^ 52 + roundSig num den < 2047 * 2 ^ 52 :=
      not_le.mp (mt (inf_le_magBits_iff hden).mp hnum.not_ge)
    rw [f64Round_of_lt hden hnum]
    obtain ⟨-, -, hsign, -⟩ :=
      f64Pack_fields neg (roundExp num den * 2 ^ 52 + roundSig num den) (by omega)
    exact hsign
  · rw [f64Round_of_le hden hnum, f64Sign_inf]

/-! ### Nearest, ties to even -/

/-- A value is a multiple of a given place, or its magnitude is below the numbers whose last place that is. -/
theorem signed_f64Int_cases (neg : Bool) (y : F64) (e : Nat) :
    (∃ k : Int, signed neg (f64Int y) = k * 2 ^ e) ∨ (0 < e ∧ signed neg (f64Int y) < 2 ^ 52 * 2 ^ e) := by
  have hsigned : signed neg (f64Int y) = f64Mag y ∨ signed neg (f64Int y) = -(f64Mag y : Int) := by
    rw [f64Int_eq_signed]
    cases neg <;> cases f64Sign y <;> simp [signed]
  obtain ⟨k, hk⟩ | ⟨he, hlt⟩ := f64Mag_cases y e
  · rw [hk] at hsigned
    push_cast at hsigned
    obtain h | h := hsigned
    · exact .inl ⟨k, h⟩
    · exact .inl ⟨-k, by rw [h, neg_mul]⟩
  · have hlt' : (f64Mag y : Int) < 2 ^ 52 * 2 ^ e := by exact_mod_cast hlt
    exact .inr ⟨he, by omega⟩

/-- The rounded magnitude is nearest the quotient among the values a finite number can have, and even in its last place
where another is as near. -/
theorem roundSig_nearest {num den : Nat} (hden : 0 < den) {v : Int}
    (hv : (∃ k : Int, v = k * 2 ^ roundExp num den) ∨
      (0 < roundExp num den ∧ v < 2 ^ 52 * 2 ^ roundExp num den)) :
    |(roundSig num den * 2 ^ roundExp num den : Int) * den - num| ≤ |v * den - num| ∧
      (|(roundSig num den * 2 ^ roundExp num den : Int) * den - num| = |v * den - num| →
        v ≠ roundSig num den * 2 ^ roundExp num den → roundSig num den % 2 = 0) := by
  have hplace : 0 < den * 2 ^ roundExp num den := by positivity
  have hnearest := roundDiv_nearest num (den * 2 ^ roundExp num den) hplace
  rw [← roundSig] at hnearest
  obtain ⟨-, hge⟩ := roundExp_spec num den hden
  generalize roundSig num den = sig at *
  generalize roundExp num den = e at *
  have hden' (k : Int) : k * 2 ^ e * den = k * ((den * 2 ^ e : Nat) : Int) := by push_cast; ring
  rw [hden' sig]
  obtain ⟨k, rfl⟩ | ⟨he, hlt⟩ := hv
  · obtain ⟨hle, htie⟩ := hnearest k
    rw [hden' k]
    exact ⟨hle, fun heq hne => htie heq fun hk => hne (by rw [hk])⟩
  · obtain ⟨hle, -⟩ := hnearest (2 ^ 52)
    have hbelow : v * den < 2 ^ 52 * ((den * 2 ^ e : Nat) : Int) := by
      rw [← hden']
      exact mul_lt_mul_of_pos_right hlt (by exact_mod_cast hden)
    have hnum : (2 ^ 52 * ((den * 2 ^ e : Nat) : Int)) ≤ num := by exact_mod_cast hge he
    rw [abs_of_nonpos (a := 2 ^ 52 * _ - _) (by omega)] at hle
    rw [abs_of_nonpos (a := v * den - num) (by omega)]
    exact ⟨by omega, fun heq => by omega⟩

theorem abs_signed_sub (neg : Bool) (v n : Int) (den : Nat) :
    |signed neg v * den - signed neg n| = |v * den - n| := by
  cases neg
  · rfl
  · rw [← abs_neg]
    congr 1
    simp only [signed, if_true]
    ring

theorem signed_signed (neg : Bool) (v : Int) : signed neg (signed neg v) = v := by cases neg <;> simp [signed]

/-- 00_scope.md R12: the rounded quotient of either sign. -/
theorem roundedTo_f64Round (neg : Bool) {num den : Nat} (hden : 0 < den) :
    RoundedTo (f64Round neg num den) (signed neg num) den := by
  have habs : (signed neg num).natAbs = num := by cases neg <;> simp [signed]
  rw [RoundedTo, habs, f64Sign_round hden]
  refine ⟨fun hnum => ?finite, fun hnum => ?infinite, ?negative, ?positive⟩
  case finite =>
    obtain ⟨hfinite, hint, hlast⟩ := f64Round_fields hden hnum neg
    refine ⟨hfinite, fun y _ => ?_⟩
    obtain ⟨hle, htie⟩ := roundSig_nearest hden (signed_f64Int_cases neg y (roundExp num den))
    rw [hint, hlast, abs_signed_sub, ← signed_signed neg (f64Int y), abs_signed_sub]
    refine ⟨hle, fun heq hne => ?_⟩
    have heven := htie heq fun hsame => hne (by rw [hsame])
    simp [heven]
  case infinite => rw [f64Round_of_le hden hnum, f64IsInf_inf]
  case negative => cases neg <;> simp [signed]
  case positive => cases neg <;> simp [signed]

/-- Settles O57: the statement's quotient is `signed neg num`. -/
theorem roundingGivesTheNearestNumber : Obligations.RoundingGivesTheNearestNumber :=
  fun neg _ _ hden => ⟨roundedTo_f64Round neg hden, f64Sign_round hden neg⟩

end Sys2Proof.Machine
end

section
/-! Arithmetic on finite numbers: the exact result, rounded once (00_scope.md R12). -/

namespace Sys2Proof.Machine

/-! ### Zeros, infinities and exact values -/

theorem f64Pack_zero (neg : Bool) : f64Pack neg 0 = if neg then 0x8000000000000000#64 else 0#64 := by
  cases neg <;> rfl

theorem f64Inf_eq (neg : Bool) : f64Inf neg = if neg then 0xFFF0000000000000#64 else 0x7FF0000000000000#64 := by
  cases neg <;> rfl

theorem f64Mag_eq_zero_iff {x : F64} : f64Mag x = 0 ↔ f64Int x = 0 := by
  rw [← f64Int_natAbs, Int.natAbs_eq_zero]

theorem signed_natAbs (v : Int) : signed (decide (v < 0)) v.natAbs = v := by
  unfold signed
  split
  · rename_i hneg
    have := of_decide_eq_true hneg
    omega
  · rename_i hpos
    have := of_decide_eq_false (Bool.eq_false_iff.mpr hpos)
    omega

theorem signed_mul_signed (a b : Bool) (v w : Int) : signed a v * signed b w = signed (a != b) (v * w) := by
  cases a <;> cases b <;> simp [signed]

theorem signed_mul (neg : Bool) (v w : Int) : signed neg v * w = signed neg (v * w) := by
  cases neg <;> simp [signed]

theorem sign_signed {n : Nat} (hn : n ≠ 0) (neg : Bool) : (signed neg n).sign = signed neg 1 := by
  have hsign : (n : Int).sign = 1 := Int.sign_eq_one_of_pos (by omega)
  cases neg <;> simp [signed, hsign]

/-- A zero sum is the zero that rounding gives. -/
theorem f64Round_zero (neg : Bool) : f64Round neg 0 1 = f64Pack neg 0 := by
  cases neg <;> decide +kernel

/-! ### The operations on finite operands -/

variable {x y : F64}

theorem f64Add?_of_finite (hx : f64IsFinite x = true) (hy : f64IsFinite y = true) :
    f64Add? x y = some (if f64Int x + f64Int y = 0 then f64Pack (f64Sign x && f64Sign y) 0
      else f64Round (decide (f64Int x + f64Int y < 0)) (f64Int x + f64Int y).natAbs 1) := by
  rw [apply_ite some]
  simp [f64Add?, f64IsNan_of_finite hx, f64IsNan_of_finite hy, f64IsInf_of_finite hx, f64IsInf_of_finite hy]

theorem f64Mul?_of_finite (hx : f64IsFinite x = true) (hy : f64IsFinite y = true) :
    f64Mul? x y = some (f64Round (f64Sign x != f64Sign y) (f64Mag x * f64Mag y) (2 ^ 1074)) := by
  simp [f64Mul?, f64IsNan_of_finite hx, f64IsNan_of_finite hy, f64IsInf_of_finite hx, f64IsInf_of_finite hy]

theorem f64Div?_of_finite (hx : f64IsFinite x = true) (hy : f64IsFinite y = true) :
    f64Div? x y =
      if f64Mag y = 0 then (if f64Mag x = 0 then none else some (f64Inf (f64Sign x != f64Sign y)))
      else some (f64Round (f64Sign x != f64Sign y) (f64Mag x * 2 ^ 1074) (f64Mag y)) := by
  simp [f64Div?, f64IsNan_of_finite hx, f64IsNan_of_finite hy, f64IsInf_of_finite hx, f64IsInf_of_finite hy]

/-! ### Their results are the exact ones, rounded -/

theorem f64Add?_rounds (hx : f64IsFinite x = true) (hy : f64IsFinite y = true) :
    ∃ r, f64Add? x y = some r ∧ RoundedTo r (f64Int x + f64Int y) 1 ∧
      (f64Int x + f64Int y = 0 → r = if f64Sign x && f64Sign y then 0x8000000000000000#64 else 0#64) := by
  rw [f64Add?_of_finite hx hy]
  refine ⟨_, rfl, ?_⟩
  split
  · rename_i hzero
    rw [hzero, ← f64Pack_zero, ← f64Round_zero]
    have hround := roundedTo_f64Round (f64Sign x && f64Sign y) (num := 0) Nat.one_pos
    have hsum : signed (f64Sign x && f64Sign y) (0 : Nat) = 0 := by cases f64Sign x && f64Sign y <;> rfl
    rw [hsum] at hround
    exact ⟨hround, fun _ => rfl⟩
  · rename_i hne
    refine ⟨?_, fun hzero => absurd hzero hne⟩
    have hround := roundedTo_f64Round (decide (f64Int x + f64Int y < 0)) (num := (f64Int x + f64Int y).natAbs)
      Nat.one_pos
    rwa [signed_natAbs] at hround

/-- A difference is the sum with the number of the other sign. -/
theorem f64Sub?_rounds (hx : f64IsFinite x = true) (hy : f64IsFinite y = true) :
    ∃ r, f64Sub? x y = some r ∧ RoundedTo r (f64Int x - f64Int y) 1 ∧
      (f64Int x - f64Int y = 0 → r = if f64Sign x && !f64Sign y then 0x8000000000000000#64 else 0#64) := by
  have hadd := f64Add?_rounds hx ((f64IsFinite_neg y).trans hy)
  rwa [f64Int_neg, f64Sign_neg, ← sub_eq_add_neg] at hadd

theorem f64Mul?_rounds (hx : f64IsFinite x = true) (hy : f64IsFinite y = true) :
    ∃ r, f64Mul? x y = some r ∧ RoundedTo r (f64Int x * f64Int y) (2 ^ 1074) ∧
      f64Sign r = (f64Sign x != f64Sign y) := by
  have hplace : 0 < 2 ^ 1074 := Nat.two_pow_pos 1074
  refine ⟨_, f64Mul?_of_finite hx hy, ?_, f64Sign_round hplace _⟩
  rw [f64Int_eq_signed x, f64Int_eq_signed y, signed_mul_signed, ← Nat.cast_mul]
  exact roundedTo_f64Round _ hplace

theorem f64Div?_rounds (hx : f64IsFinite x = true) (hy : f64IsFinite y = true) (hne : f64Int y ≠ 0) :
    ∃ r, f64Div? x y = some r ∧
      RoundedTo r (f64Int x * 2 ^ 1074 * (f64Int y).sign) (f64Int y).natAbs ∧
      f64Sign r = (f64Sign x != f64Sign y) := by
  have hmag : f64Mag y ≠ 0 := mt f64Mag_eq_zero_iff.mp hne
  have hpos : 0 < f64Mag y := Nat.pos_of_ne_zero hmag
  refine ⟨_, (f64Div?_of_finite hx hy).trans (if_neg hmag), ?_, f64Sign_round hpos _⟩
  have hnum : f64Int x * 2 ^ 1074 * (f64Int y).sign =
      signed (f64Sign x != f64Sign y) ((f64Mag x * 2 ^ 1074 : Nat) : Int) := by
    rw [mul_right_comm, f64Int_eq_signed x, f64Int_eq_signed y, sign_signed hmag, signed_mul_signed, mul_one,
      signed_mul, Nat.cast_mul, Nat.cast_pow, Nat.cast_ofNat]
  rw [hnum, f64Int_natAbs]
  exact roundedTo_f64Round _ hpos

theorem f64Div?_by_zero (hx : f64IsFinite x = true) (hy : f64IsFinite y = true) (hzero : f64Int y = 0) :
    f64Div? x y = if f64Int x = 0 then none else some (f64Inf (f64Sign x != f64Sign y)) := by
  simp only [f64Div?_of_finite hx hy, f64Mag_eq_zero_iff, hzero, if_true]

/-- An operation of the rules: the number that its `?` form gives, and else a NaN. -/
theorem getD_freeNan (r? : Option F64) (op : FpOp) (x y : F64) :
    (∀ v, r? = some v → r?.getD (freeNan op x y) = v) ∧
      (r? = none → f64IsNan (r?.getD (freeNan op x y)) = true) :=
  ⟨fun _ h => h ▸ rfl, fun h => h ▸ freeNan_isNan op x y⟩

/-- Settles O58: each operation's exact result rounded, and the division by zero apart. -/
theorem finiteArithmeticRoundsTheExactResult : Obligations.FiniteArithmeticRoundsTheExactResult := by
  intro x y zero inf differ is
  refine ⟨fun hx hy => ⟨f64Add?_rounds hx hy, f64Sub?_rounds hx hy, f64Mul?_rounds hx hy, f64Div?_rounds hx hy, ?_, ?_⟩,
    getD_freeNan _ .add x y, getD_freeNan _ .sub x y, getD_freeNan _ .mul x y, getD_freeNan _ .div x y⟩
  · intro hzero hne
    rw [f64Div?_by_zero hx hy hzero, if_neg hne, f64Inf_eq]
  · intro hzero hzero'
    rw [f64Div?_by_zero hx hy hzero, if_pos hzero']

end Sys2Proof.Machine
end

section
/-! NaNs, infinities, the comparison, fmin and fmax (00_scope.md R12, section 7). -/

namespace Sys2Proof.Machine

variable {x y : F64}

/-! ### Infinities -/

/-- A number is its sign, its exponent and its fraction. -/
theorem f64_ext (hsign : f64Sign x = f64Sign y) (hexp : f64Exp x = f64Exp y) (hfrac : f64Frac x = f64Frac y) :
    x = y := by
  refine BitVec.eq_of_getLsbD_eq fun j hj => ?_
  obtain hlow | hmid | rfl : j < 52 ∨ (52 ≤ j ∧ j < 63) ∨ j = 63 := by omega
  · have hbit := congrArg (·.getLsbD j) (BitVec.eq_of_toNat_eq hfrac)
    simpa [BitVec.getLsbD_extractLsb', hlow] using hbit
  · have hbit := congrArg (·.getLsbD (j - 52)) (BitVec.eq_of_toNat_eq hexp)
    simpa [BitVec.getLsbD_extractLsb', show j - 52 < 11 by omega, Nat.add_sub_cancel' hmid.1] using hbit
  · exact hsign

theorem f64IsInf_iff : f64IsInf x = true ↔ f64Exp x = 2047 ∧ f64Frac x = 0 := by
  simp [f64IsInf]

theorem f64IsInf_iff_eq : f64IsInf x = true ↔ x = f64Inf (f64Sign x) := by
  refine ⟨fun hx => ?_, fun hx => hx ▸ f64IsInf_inf _⟩
  obtain ⟨hexp, hfrac⟩ := f64IsInf_iff.mp hx
  obtain ⟨hexp', hfrac'⟩ := f64IsInf_iff.mp (f64IsInf_inf (f64Sign x))
  exact f64_ext (f64Sign_inf _).symm (hexp.trans hexp'.symm) (hfrac.trans hfrac'.symm)

theorem f64IsNan_of_inf (hx : f64IsInf x = true) : f64IsNan x = false := by
  simp [f64IsNan, (f64IsInf_iff.mp hx).2]

theorem f64Neg_of_inf (hx : f64IsInf x = true) : f64Neg x = f64Inf (!f64Sign x) := by
  have hneg := f64IsInf_iff_eq.mp ((f64IsInf_neg x).trans hx)
  rwa [f64Sign_neg] at hneg

theorem f64Mag_of_inf (hx : f64IsInf x = true) : f64Mag x = 2 ^ 52 * 2 ^ 2046 := by
  obtain ⟨hexp, hfrac⟩ := f64IsInf_iff.mp hx
  rw [f64Mag, hexp, hfrac, if_neg (by decide), Nat.add_zero, show 2047 - 1 = 2046 from rfl]

theorem f64Mag_ne_zero_of_inf (hx : f64IsInf x = true) : f64Mag x ≠ 0 := by
  rw [f64Mag_of_inf hx]
  positivity

/-- An infinity's magnitude is beyond that of every finite number. -/
theorem f64Mag_lt_of_finite (hx : f64IsFinite x = true) (hy : f64IsInf y = true) : f64Mag x < f64Mag y := by
  have hfrac : f64Frac x < 2 ^ 52 := (x.extractLsb' 0 52).isLt
  have hexp : f64Exp x < 2 ^ 11 := (x.extractLsb' 52 11).isLt
  have hne : f64Exp x ≠ 2047 := by simpa [f64IsFinite] using hx
  have hplace : 2 ^ 2046 = 2 * 2 ^ 2045 := pow_succ' 2 2045
  have hpow : f64Exp x ≠ 0 → 2 ^ (f64Exp x - 1) ≤ 2 ^ 2045 := fun _ => Nat.pow_le_pow_right (by omega) (by omega)
  have hpos : 0 < 2 ^ 2045 := Nat.two_pow_pos 2045
  rw [f64Mag_of_inf hy, f64Mag, hplace]
  generalize 2 ^ 2045 = place at *
  split
  · omega
  · rename_i hnormal
    calc (2 ^ 52 + f64Frac x) * 2 ^ (f64Exp x - 1) ≤ (2 ^ 52 + f64Frac x) * place :=
          Nat.mul_le_mul_left _ (hpow hnormal)
      _ < 2 ^ 53 * place := Nat.mul_lt_mul_of_pos_right (by omega) hpos
      _ = 2 ^ 52 * (2 * place) := by ring

/-! ### The operations with a NaN or an infinity -/

theorem f64ops_of_nan (h : f64IsNan x = true ∨ f64IsNan y = true) :
    f64Add? x y = none ∧ f64Sub? x y = none ∧ f64Mul? x y = none ∧ f64Div? x y = none ∧ f64Lt x y = false := by
  have hor : (f64IsNan x || f64IsNan y) = true := by simpa using h
  have hand : (!f64IsNan x && !f64IsNan y) = false := by rw [← Bool.not_or, hor]; rfl
  refine ⟨?_, ?_, ?_, ?_, ?_⟩
  · rw [f64Add?, if_pos hor]
  · rw [f64Sub?, f64Add?, f64IsNan_neg, if_pos hor]
  · simp only [f64Mul?, if_pos hor]
  · simp only [f64Div?, if_pos hor]
  · rw [f64Lt, hand, Bool.false_and]

theorem f64ops_of_inf_finite (hx : f64IsInf x = true) (hy : f64IsFinite y = true) :
    f64Add? x y = some x ∧ f64Sub? x y = some x ∧ f64Div? x y = some (f64Inf (f64Sign x != f64Sign y)) ∧
      f64Mul? x y = if f64Int y = 0 then none else some (f64Inf (f64Sign x != f64Sign y)) := by
  simp [f64Add?, f64Sub?, f64Div?, f64Mul?, hx, f64IsNan_of_inf hx, f64IsNan_of_finite hy, f64IsInf_of_finite hy,
    f64Mag_ne_zero_of_inf hx, f64Mag_eq_zero_iff]

theorem f64ops_of_finite_inf (hx : f64IsFinite x = true) (hy : f64IsInf y = true) :
    f64Add? x y = some y ∧ f64Sub? x y = some (f64Inf (!f64Sign y)) ∧
      f64Div? x y = some (f64Pack (f64Sign x != f64Sign y) 0) ∧
      f64Mul? x y = if f64Int x = 0 then none else some (f64Inf (f64Sign x != f64Sign y)) := by
  simp [f64Add?, f64Sub?, f64Div?, f64Mul?, hy, f64IsNan_of_inf hy, f64IsNan_of_finite hx, f64IsInf_of_finite hx,
    f64Mag_ne_zero_of_inf hy, f64Mag_eq_zero_iff, f64Neg_of_inf hy, f64IsInf_inf, f64IsNan_of_inf (f64IsInf_inf _)]

theorem f64ops_of_inf_inf (hx : f64IsInf x = true) (hy : f64IsInf y = true) :
    f64Add? x y = (if f64Sign x = f64Sign y then some x else none) ∧
      f64Sub? x y = (if f64Sign x = f64Sign y then none else some x) ∧ f64Div? x y = none ∧
      f64Mul? x y = some (f64Inf (f64Sign x != f64Sign y)) := by
  cases hsx : f64Sign x <;> cases hsy : f64Sign y <;>
    simp [f64Add?, f64Sub?, f64Div?, f64Mul?, hx, hy, f64IsNan_of_inf hx, f64IsNan_of_inf hy,
      f64Mag_ne_zero_of_inf hx, f64Mag_ne_zero_of_inf hy, hsx, hsy]

/-! ### The comparison -/

theorem f64Lt_iff (hx : f64IsNan x = false) (hy : f64IsNan y = false) : f64Lt x y = true ↔ f64Int x < f64Int y := by
  simp [f64Lt, hx, hy]

theorem f64Lt_self (x : F64) : f64Lt x x = false := by simp [f64Lt]

theorem f64Lt_asymm (h : f64Lt x y = true) : f64Lt y x = false := by
  simp only [f64Lt, Bool.and_eq_true, decide_eq_true_eq] at h
  obtain ⟨-, hlt⟩ := h
  simp [f64Lt, hlt.le]

/-- An infinity is on its side of every other number. -/
theorem f64Int_inf_cases (hx : f64IsInf x = true) (hy : f64IsNan y = false) :
    (f64Int x < f64Int y ↔ f64Sign x = true ∧ y ≠ x) ∧ (f64Int y < f64Int x ↔ f64Sign x = false ∧ y ≠ x) := by
  obtain hnan | hinf | hfinite := f64_cases y
  · exact absurd hnan (by rw [hy]; exact Bool.false_ne_true)
  · have hmag : f64Mag y = f64Mag x := by rw [f64Mag_of_inf hx, f64Mag_of_inf hinf]
    have hpos := Nat.pos_of_ne_zero (f64Mag_ne_zero_of_inf hx)
    have heq : y = x ↔ f64Sign y = f64Sign x :=
      ⟨fun h => h ▸ rfl, fun h => by rw [f64IsInf_iff_eq.mp hx, f64IsInf_iff_eq.mp hinf, h]⟩
    rw [Ne, heq, f64Int_eq_signed x, f64Int_eq_signed y, hmag]
    cases f64Sign x <;> cases f64Sign y <;> simp [signed] <;> omega
  · have hmag := f64Mag_lt_of_finite hfinite hx
    have hne : y ≠ x := by
      rintro rfl
      exact hmag.false
    rw [f64Int_eq_signed x, f64Int_eq_signed y]
    cases f64Sign x <;> cases f64Sign y <;> simp [signed, hne] <;> omega

/-! ### fmin and fmax -/

theorem fmin_mem (x y : F64) : fmin x y = x ∨ fmin x y = y := by
  unfold fmin
  split_ifs <;> simp

theorem fmax_mem (x y : F64) : fmax x y = x ∨ fmax x y = y := by
  unfold fmax
  split_ifs <;> simp

theorem fminmax_of_nan_left (hx : f64IsNan x = true) (hy : f64IsNan y = false) : fmin x y = y ∧ fmax x y = y := by
  simp [fmin, fmax, hx, hy]

theorem fminmax_of_nan_right (hx : f64IsNan x = false) (hy : f64IsNan y = true) : fmin x y = x ∧ fmax x y = x := by
  simp [fmin, fmax, hx, hy]

/-- Of two numbers the minimum is one that the other is not below. -/
theorem fmin_cases (hx : f64IsNan x = false) (hy : f64IsNan y = false) :
    (fmin x y = x ∧ f64Lt y x = false) ∨ (fmin x y = y ∧ f64Lt x y = false) := by
  simp only [fmin, hx, hy, Bool.and_self, Bool.false_eq_true, if_false]
  cases hyx : f64Lt y x with
  | true => exact .inr ⟨rfl, f64Lt_asymm hyx⟩
  | false =>
    cases hxy : f64Lt x y with
    | true => exact .inl ⟨rfl, rfl⟩
    | false => simp only [Bool.false_eq_true, if_false, and_true]; split_ifs <;> simp

/-- Of two numbers the maximum is one that is not below the other. -/
theorem fmax_cases (hx : f64IsNan x = false) (hy : f64IsNan y = false) :
    (fmax x y = x ∧ f64Lt x y = false) ∨ (fmax x y = y ∧ f64Lt y x = false) := by
  simp only [fmax, hx, hy, Bool.and_self, Bool.false_eq_true, if_false]
  cases hxy : f64Lt x y with
  | true => exact .inr ⟨rfl, f64Lt_asymm hxy⟩
  | false =>
    cases hyx : f64Lt y x with
    | true => exact .inl ⟨rfl, rfl⟩
    | false => simp only [Bool.false_eq_true, if_false, and_true]; split_ifs <;> simp

theorem fminmax_bounds (hx : f64IsNan x = false) (hy : f64IsNan y = false) :
    f64Lt x (fmin x y) = false ∧ f64Lt y (fmin x y) = false ∧ f64Lt (fmax x y) x = false ∧
      f64Lt (fmax x y) y = false := by
  have hmin : f64Lt x (fmin x y) = false ∧ f64Lt y (fmin x y) = false := by
    obtain ⟨heq, hlt⟩ | ⟨heq, hlt⟩ := fmin_cases hx hy
    · exact heq.symm ▸ ⟨f64Lt_self x, hlt⟩
    · exact heq.symm ▸ ⟨hlt, f64Lt_self y⟩
  have hmax : f64Lt (fmax x y) x = false ∧ f64Lt (fmax x y) y = false := by
    obtain ⟨heq, hlt⟩ | ⟨heq, hlt⟩ := fmax_cases hx hy
    · exact heq.symm ▸ ⟨f64Lt_self x, hlt⟩
    · exact heq.symm ▸ ⟨hlt, f64Lt_self y⟩
  exact ⟨hmin.1, hmin.2, hmax⟩

/-- Settles O59: the operations by the kinds of their operands, the comparison through the exact values. -/
theorem specialOperandsAndComparisons : Obligations.SpecialOperandsAndComparisons := by
  intro x y zero inf sx sy nan finite
  have hzero : zero = fun neg => f64Pack neg 0 := funext fun neg => (f64Pack_zero neg).symm
  have hinf : inf = f64Inf := funext fun neg => (f64Inf_eq neg).symm
  rw [hzero, hinf]
  have notNan {z : F64} (h : ¬nan z) : f64IsNan z = false := Bool.eq_false_iff.mpr h
  have isInf {z : F64} (h : z = f64Inf (f64Sign z)) : f64IsInf z = true := f64IsInf_iff_eq.mpr h
  refine ⟨f64ops_of_nan, fun hx hy => f64ops_of_inf_finite (isInf hx) hy,
    fun hx hy => f64ops_of_finite_inf hx (isInf hy), fun hx hy => f64ops_of_inf_inf (isInf hx) (isInf hy),
    fun hx hy => f64Lt_iff (f64IsNan_of_finite hx) (f64IsNan_of_finite hy), ?below, ?above,
    fun hx hy => fminmax_of_nan_left hx (notNan hy), fun hx hy => fminmax_of_nan_right (notNan hx) hy,
    fmin_mem x y, fmax_mem x y, fun hx hy => fminmax_bounds (notNan hx) (notNan hy)⟩
  case below =>
    intro hx hy
    exact (f64Lt_iff (f64IsNan_of_inf (isInf hx)) (notNan hy)).trans (f64Int_inf_cases (isInf hx) (notNan hy)).1
  case above =>
    intro hy hx
    exact (f64Lt_iff (notNan hx) (f64IsNan_of_inf (isInf hy))).trans (f64Int_inf_cases (isInf hy) (notNan hx)).2

end Sys2Proof.Machine
end
